-- ==== Sys2Proof/Word.lean ====
section
/-! DEFINITION. The word types of the block: a byte on the wire and a 32-bit host register
(spec/00_scope.md R9). -/

namespace Sys2Proof

/-- A byte: 8 bits, bit 7 the most significant (R9). -/
abbrev Byte := BitVec 8

/-- A host register word: 32 bits, bit 31 the most significant (R9). -/
abbrev Word := BitVec 32

end Sys2Proof
end

