-- ==== Sys2Proof/Config.lean ====
section
/-! DEFINITION. What an instance of the block fixes (spec/00_scope.md R6: the parameters), the fixed
constants of R7 and R8, and the free values: what the spec calls "any value" (a draw, R48). -/

namespace Sys2Proof

/-- The parameters of R6, fixed for one instance of the block: "Each is fixed per instance of the
block and never changes while it runs". Deadlines are in ticks. -/
structure Params where
  /-- `CHUNK_SIZE`: the largest byte count of one BULK request. -/
  chunkSize : Nat
  /-- `N_POWERUP`: the `0xFF` bytes clocked in PowerUpClock. -/
  nPowerup : Nat
  /-- `ACMD41_RESP_LEN`: the response length requested for ACMD41. -/
  acmd41RespLen : Nat
  /-- `TIME_WIDTH`: the width of the time input `now`, in bits. -/
  timeWidth : Nat
  /-- `T_R1(idx)`: the R1 poll deadline of each command index. -/
  tR1 : Vector Nat 64
  /-- `T_INIT`: the deadline of the CMD55/ACMD41 loop. -/
  tInit : Nat
  /-- `T_TOKEN`: the deadline of the data-token poll. -/
  tToken : Nat
  /-- `T_WBUSY`: the deadline of the write busy poll. -/
  tWbusy : Nat
  /-- `REG_BASE`: the host bus address of the register window. -/
  regBase : Nat
  deriving DecidableEq, Repr

/-- The legal values of R6's table. -/
def Params.wf (p : Params) : Prop :=
  1 ≤ p.chunkSize ∧ 10 ≤ p.nPowerup ∧ (p.acmd41RespLen = 1 ∨ p.acmd41RespLen = 5) ∧
    32 ≤ p.timeWidth

/-- R6's defaults, for a tick rate and a window base, the two parameters R6 leaves OPEN. -/
def Params.standard (ticks base : Nat) : Params where
  chunkSize := 6
  nPowerup := 10
  acmd41RespLen := 5
  timeWidth := 64
  tR1 := Vector.replicate 64 ticks
  tInit := 2 * ticks
  tToken := ticks
  tWbusy := ticks
  regBase := base

/-- One less than `TICKS_PER_SECOND`. R6 leaves the rate OPEN, an integer ≥ 1: no value of it can be
proved (log entry 2). -/
opaque Config.ticksLessOne : Nat

/-- `TICKS_PER_SECOND` of the instance whose reset state is `State.reset`: open, and at least 1 (R6). -/
def Config.ticksPerSecond : Nat := Config.ticksLessOne + 1

/-- The parameters of `State.reset`: R6's defaults at the open tick rate. The window stands at bus
address 0 there (DESIGN CHOICE, log entry 3: R6 leaves `REG_BASE` open; statements hold for every
value of the field). -/
def Config.default : Params := Params.standard Config.ticksPerSecond 0

/-- `BLOCK_SIZE` (R7). -/
def Config.blockSize : Nat := 512

/-- `MAX_RESP_LEN` (R8). -/
def Config.maxRespLen : Nat := 8

/-- `FILL`, the byte sent during every read or poll transfer (R8). -/
def Config.fill : Byte := 0xFF#8

/-- The data-start token (R7). -/
def Config.startToken : Byte := 0xFE#8

/-- The idle code of an R1 byte (R7). -/
def Config.idleCode : Byte := 0x01#8

/-- The ready and success code of an R1 byte (R7). -/
def Config.readyCode : Byte := 0x00#8

/-- The check pattern CMD8 echoes in the low byte of its payload (R106). -/
def Config.checkPattern : Byte := 0xAA#8

/-- The argument of CMD8 (R7). -/
def Config.cmd8Arg : Word := 0x000001AA#32

/-- The argument of ACMD41: the HCS bit set (R7). -/
def Config.acmd41Arg : Word := 0x40000000#32

/-- The argument of CMD55 (R8). -/
def Config.cmd55Arg : Word := 0x00000000#32

/-- Bytes of the read CRC trailer, and of the write dummy CRC (R7). -/
def Config.crcLen : Nat := 2

/-- Bytes of the trailing padding (R7). -/
def Config.padLen : Nat := 8

/-- FREE VALUE: what a host read returns where R69 says "any value". The argument is the number of
the draw (`State.draws`). No body: nothing can be proved of it. -/
opaque Config.freeWord : Nat → Word

/-- FREE VALUE: a byte of a BULK chunk that was answered `fail` (R205). The argument is the number of
the draw. -/
opaque Config.freeByte : Nat → Byte

/-- FREE VALUE: what byte `i` of DATA holds after reset number `epoch`, until it is written (R46,
R48: "each byte is an arbitrary value (a draw)", fixed until written). -/
opaque Config.dataDraw : (epoch i : Nat) → Byte

end Sys2Proof
end

