-- ==== Sys2Proof/Machine/Crc7.lean ====
section
/-! DEFINITION. The CRC7 engine (spec/41_crc7.md R150, R151) and the six bytes of a command frame
(spec/30_encoding.md R100 to R103). -/

namespace Sys2Proof.Machine

/-- One bit of the CRC7 shift register: the feedback is the input bit XOR the bit shifted out, and it
enters at x^3 and x^0 (R150). -/
def crc7Bit (s : BitVec 7) (b : Bool) : BitVec 7 :=
  if b ^^ s.getLsbD 6 then (s <<< 1) ^^^ 0x09#7 else s <<< 1

/-- The bits of a byte, the most significant first (R150). -/
def msbFirst (b : Byte) : List Bool :=
  [b.getLsbD 7, b.getLsbD 6, b.getLsbD 5, b.getLsbD 4,
   b.getLsbD 3, b.getLsbD 2, b.getLsbD 1, b.getLsbD 0]

/-- `crc7_update(b, c)` of R150 on the 7-bit accumulator. -/
def crc7Update (b : Byte) (c : BitVec 7) : BitVec 7 :=
  (msbFirst b).foldl crc7Bit c

/-- `crc7_of(s)` of R151: the fold of `crc7Update` from CRC state 0. -/
def crc7Of (s : List Byte) : BitVec 7 :=
  s.foldl (fun c b => crc7Update b c) 0#7

/-- Byte `n` of a 32-bit value, `n = 0` the least significant. -/
def byteOf (v : Word) (n : Nat) : Byte := v.extractLsb' (8 * n) 8

/-- Frame bytes 0..4: `0x40 | idx`, then the argument big-endian (R101, R102). -/
def frameHead (idx : BitVec 6) (arg : Word) : List Byte :=
  [0x40#8 ||| idx.zeroExtend 8, byteOf arg 3, byteOf arg 2, byteOf arg 1, byteOf arg 0]

/-- The CRC7 field of the frame of `idx` and `arg` (R103). -/
def frameCrc (idx : BitVec 6) (arg : Word) : BitVec 7 := crc7Of (frameHead idx arg)

/-- The six bytes of a frame with a given CRC field: byte 5 is the CRC7 shifted left by one, with the
stop bit 1 (R100, R103). -/
def frameBytes (idx : BitVec 6) (arg : Word) (crc : BitVec 7) : Vector Byte 6 :=
  #v[0x40#8 ||| idx.zeroExtend 8, byteOf arg 3, byteOf arg 2, byteOf arg 1, byteOf arg 0,
     crc ++ 1#1]

/-- `BuildFrame(idx, arg)` of R170: the frame with the CRC7 of its own first five bytes. -/
def buildFrame (idx : BitVec 6) (arg : Word) : Vector Byte 6 :=
  frameBytes idx arg (frameCrc idx arg)

end Sys2Proof.Machine
end

