-- ==== Sys2Proof/Machine/State.lean ====
section
/-! DEFINITION. The state of the block, as plain data: the host-visible registers (spec/10_state.md
R22 to R35), the sequencer's own state (R36 to R39), the transport port (R40), the inputs still to
come, and the state after reset (R46). -/

namespace Sys2Proof.Machine

/-- STATUS.CSST: the chip-select state the block last saw confirmed (R23). -/
inductive CsState where
  | deasserted
  | asserted
  | unknown
  deriving DecidableEq, Repr

/-- STATUS.ERR: the kind of the last operation's error (R280). -/
inductive ErrKind where
  | none
  | transport
  | timeout
  | protocol
  | illegal
  deriving DecidableEq, Repr

/-- STATUS.DETAIL: which check produced the error (R281). -/
inductive Detail where
  | none
  | cmd0NotIdle
  | cmd8NotIdle
  | cmd8EchoMismatch
  | cmd55NotIdle
  | cmd17NotSuccess
  | cmd24NotSuccess
  | r1PollTimeout
  | initLoopTimeout
  | tokenPollTimeout
  | wbusyPollTimeout
  | xferFail
  | csAssertFail
  | csDeassertFail
  | badOp
  | badResplen
  deriving DecidableEq, Repr

/-- STATUS.INITST: the last state INIT entered (R43). -/
inductive InitState where
  | none
  | powerup
  | reset
  | ifcheck
  | voltneg
  | ready
  deriving DecidableEq, Repr

/-- The four operations of the sequencer (R36). -/
inductive Op where
  | sendCmd
  | init
  | readBlock
  | writeBlock
  deriving DecidableEq, Repr

/-- The place in an operation's pseudocode that calls SendCommand: SEND_CMD's own command, INIT's four,
and the first step of each block operation (R104, "sent by"). -/
inductive Cmd where
  | user
  | cmd0
  | cmd8
  | cmd55
  | acmd41
  | cmd17
  | cmd24
  deriving DecidableEq, Repr

/-- Each call of the chunked transfer `Xfer` in the pseudocode (R171, R220, R251, R256). -/
inductive Xfer where
  /-- INIT's power-up bytes (R221). -/
  | powerUp
  /-- A command frame (R171 step 3). -/
  | frame (w : Cmd)
  /-- The response bytes after R1 (R174). -/
  | rest (w : Cmd)
  /-- The 512 bytes of a read block (R252). -/
  | block
  /-- The two CRC bytes after a read block (R254). -/
  | readCrc
  /-- The padding after a read block (R254). -/
  | readPad
  /-- The token before a written block (R257). -/
  | token
  /-- The 512 bytes of WCOPY (R255). -/
  | copy
  /-- The dummy CRC after a written block (R257). -/
  | dummyCrc
  /-- The padding after the write busy poll (R259). -/
  | writePad
  deriving DecidableEq, Repr

/-- Each call of `Poll` (R204): for R1, for the data-start token, for the end of write busy. -/
inductive PollKind where
  | r1 (w : Cmd)
  | token
  | wbusy
  deriving DecidableEq, Repr

/-- A chip-select bracket (R175, R260): a command exchange, or the data exchange of a block
operation. -/
inductive Exchange where
  | cmd (w : Cmd)
  | read
  | write
  deriving DecidableEq, Repr

/-- A point in an operation's pseudocode (R36). At `start`, `issueCmd` and `issueToken` no request is
outstanding and the sequencer moves on by itself; at every other point it waits for the answer to the
one request it has issued. -/
inductive Point where
  /-- Where CTRL_GO leaves the sequencer (R132). -/
  | start (op : Op)
  /-- SendCommand has built FRAME and is about to send it (R171). -/
  | issueCmd (w : Cmd)
  /-- CS_ASSERT is outstanding (R202). -/
  | csOn (b : Exchange)
  /-- BULK number `c` of a chunked transfer is outstanding (R200). -/
  | xfer (x : Xfer) (c : Nat)
  /-- The one-byte BULK of a poll is outstanding (R204). -/
  | poll (k : PollKind)
  /-- WRITE_BLOCK's data exchange is open and its token is about to be sent (R256 step 2). -/
  | issueToken
  /-- The CS_DEASSERT that ends an exchange is outstanding (R203). -/
  | csOff (b : Exchange)
  /-- The failure path's CS_DEASSERT is outstanding; `d` is the error it will end with (R285). -/
  | failCs (op : Op) (d : Detail)
  deriving DecidableEq, Repr

/-- SEQ (R36): `IDLE`, or `RUN(op, p)`; `Point.op` gives the `op` of a point. -/
inductive Seq where
  | idle
  | run (p : Point)
  deriving DecidableEq, Repr

/-- A transport request (R40). -/
inductive Request where
  | csAssert
  | csDeassert
  | bulk (s : List Byte)
  deriving DecidableEq, Repr

/-- A transport answer (R40): failure, or success with the bytes received (none for a chip-select
request). -/
inductive Answer where
  | ok (r : List Byte)
  | fail
  deriving DecidableEq, Repr

/-- One access as the host puts it on its bus: a width in bits, a bus address and, for a write, data
(R62, R63). -/
structure HostAccess where
  width : Nat
  write : Bool
  addr : Nat
  data : Word
  deriving DecidableEq, Repr

/-- What the outside does to the block, one event at a time (R5): the host accesses a register, the
transport answers the request outstanding or the next one issued, the time source reaches tick `t` of its
own unbounded count (R47), the platform resets the block, an agent other than the sequencer uses the
transport (R76), or the transport answers a request that a reset abandoned (R312, log entry 25). -/
inductive Event where
  | host (a : HostAccess)
  | answer (a : Answer)
  | time (t : Nat)
  | reset
  | otherAgent
  | staleAnswer (a : Answer)
  deriving DecidableEq, Repr

/-- DATA as bytes by window offset, 0x200 to 0x3FF, offsets strictly rising. An offset that is not
listed holds no written byte; `State.dataByte` then reads the draw of R48. -/
abbrev Memory := List Host.Cell

/-- The state of the block and of what lies at its three interfaces. -/
structure State where
  /-- The parameters of this block (R6). -/
  params : Params
  /-- CTRL.OP (R22). -/
  ctrlOp : BitVec 3
  /-- STATUS.BUSY (R23). -/
  busy : Bool
  /-- STATUS.DONE (R23). -/
  done : Bool
  /-- STATUS.WIGN (R23, R68). -/
  wign : Bool
  /-- STATUS.CSST (R23, R41). -/
  csst : CsState
  /-- STATUS.ERR (R42, R280). -/
  err : ErrKind
  /-- STATUS.DETAIL (R42, R281). -/
  detail : Detail
  /-- STATUS.INITST (R43). -/
  initst : InitState
  /-- CMD.IDX (R24). -/
  cmdIdx : BitVec 6
  /-- ARG (R25). -/
  arg : Word
  /-- RESPLEN.LEN (R26). -/
  respLen : BitVec 4
  /-- CRC.ACC (R27). -/
  crcAcc : BitVec 7
  /-- ACMD41CNT (R29). -/
  acmd41cnt : Word
  /-- WRESP.B (R30). -/
  wresp : Byte
  /-- RESP[0..7] (R33); PAYLOAD and R1STAT are views of it (R31, R32). -/
  resp : Vector Byte 8
  /-- FRAME[0..5] (R34). -/
  frame : Vector Byte 6
  /-- DATA[0..511] (R35). -/
  data : Memory
  /-- SEQ (R36). -/
  seq : Seq
  /-- L_OP (R37). -/
  lOp : BitVec 3
  /-- L_IDX (R37). -/
  lIdx : BitVec 6
  /-- L_ARG (R37). -/
  lArg : Word
  /-- L_LEN (R37). -/
  lLen : BitVec 4
  /-- `cs_owned` (R38). -/
  csOwned : Bool
  /-- WCOPY[0..511] (R39, R255), a copy of DATA. -/
  wcopy : Memory
  /-- T0 (R39). -/
  t0 : Nat
  /-- T0_INIT (R39). -/
  t0Init : Nat
  /-- The transport request that is outstanding, if any (R40). -/
  req : Option Request
  /-- The transport byte stream (R60): every request issued since reset, the newest first. -/
  wire : List Request
  /-- The time input `now` (R47), below 2^TIME_WIDTH. -/
  now : Nat
  /-- The model's own count of the wraps of `now`: with it a time that goes down is told from a wrap
  (R47, R292). -/
  wraps : Nat
  /-- The inputs still to come, in their order (R5). -/
  inbox : List Event
  /-- The inputs that come again and again, for ever, once `inbox` is used up: with it a run can be
  infinite (R11 (d), R291). Empty where nothing more comes. -/
  cycle : List Event
  /-- The value the last host read returned (R130). -/
  rdata : Word
  /-- The model's own counter of draws made so far (R48). -/
  draws : Nat
  /-- The model's own counter of resets, which numbers the draw of DATA (R46, R48). -/
  dataEpoch : Nat
  deriving DecidableEq, Repr

/-- Why the machine stops with a fault. -/
inductive Fault where
  /-- Raised by `step`: a request is outstanding, and no answer, no host access and no reset will ever
  come. R293: the sequencer waits "with BUSY = 1 for good". Safe: the block goes nowhere either. A hang
  (R11 (d)) is not this: there the answers go on, and so do the steps. -/
  | stuck
  deriving DecidableEq, Repr

/-- Why the model gives a step no meaning. -/
inductive Refusal where
  /-- Raised by an arm of `exec` whose instruction has no meaning yet. Safe. -/
  | notModelled (mnemonic : String)
  /-- Raised on a host access that is not 32 bits wide: "has no meaning in this spec" (R63). Safe. -/
  | badWidth
  /-- Raised on a host access at an offset that is no multiple of 4 (R63). Safe. -/
  | misaligned
  /-- Raised on a host access outside the 1 KiB window (R65). Safe. -/
  | outsideWindow
  /-- Raised by `step` where the time source goes back while an operation runs: a platform assumption
  is broken (R47, R318 (b), U15). Safe. -/
  | timeDecreased
  /-- Raised by `step` where another agent uses the transport while an operation runs: a platform
  assumption is broken (R76, R318 (a), U15). Safe. -/
  | transportShared
  /-- Raised by a wire row's meaning where the sequencer is at no point that sends or receives it; `step`
  never gives it one there (R36). Safe. -/
  | wireOutOfPlace
  /-- Raised by `step` where FRAME holds no command frame at the point that sends it; no run reaches
  this, because BuildFrame wrote it (R170). Safe. -/
  | badFrame
  deriving DecidableEq, Repr

/-- The state after reset of a block with parameters `p` (R46, R310). The fields R46 does not name are
T0 and T0_INIT (0, log entry 4), the port (nothing outstanding, nothing issued, R311), and the model's
own: the time input and its wraps, the inputs to come, the read value and the two draw counters (log
entry 5). -/
def State.resetWith (p : Params) : State where
  params := p
  ctrlOp := 0#3
  busy := false
  done := false
  wign := false
  csst := .deasserted
  err := .none
  detail := .none
  initst := .none
  cmdIdx := 0#6
  arg := 0#32
  respLen := 1#4
  crcAcc := 0#7
  acmd41cnt := 0#32
  wresp := 0#8
  resp := Vector.replicate 8 0xFF#8
  frame := Vector.replicate 6 0x00#8
  data := []
  seq := .idle
  lOp := 0#3
  lIdx := 0#6
  lArg := 0#32
  lLen := 1#4
  csOwned := false
  wcopy := []
  t0 := 0
  t0Init := 0
  req := .none
  wire := []
  now := 0
  wraps := 0
  inbox := []
  cycle := []
  rdata := 0#32
  draws := 0
  dataEpoch := 0

/-- The machine right after reset, with the default parameters. -/
def State.reset : State := State.resetWith Config.default

end Sys2Proof.Machine
end

