-- ==== Sys2Proof/Machine/Ops.lean ====
section
/-! DEFINITION. The named operations over DATA, the transport port and the chip-select bracket, and the
one operation every failure goes through (spec/60_exceptions.md R285), with the completion event beside
it (spec/40_host_ops.md R134). -/

namespace Sys2Proof.Machine

/-! ## DATA -/

/-- The first and the last-plus-one window offset of DATA (spec/20_memory.md R61). -/
def dataBase : Nat := 0x200

def dataEnd : Nat := 0x400

/-- The written byte at a window offset, if any. -/
def Memory.read : Memory → Nat → Option Byte
  | [], _ => none
  | c :: m, a => if c.1 = a then some c.2 else Memory.read m a

/-- Write one byte, keeping the offsets strictly rising. -/
def Memory.write : Memory → Nat → Byte → Memory
  | [], a, b => [(a, b)]
  | c :: m, a, b =>
    if a < c.1 then (a, b) :: c :: m
    else if a = c.1 then (a, b) :: m
    else c :: Memory.write m a b

/-- Write a byte string at rising offsets. -/
def Memory.writeBytes : Memory → Nat → List Byte → Memory
  | m, _, [] => m
  | m, a, b :: bs => Memory.writeBytes (Memory.write m a b) (a + 1) bs

/-- Whether every offset of a memory is above `lo`, and they rise strictly. -/
def Memory.risesAbove : Nat → Memory → Bool
  | _, [] => true
  | lo, c :: m => decide (lo < c.1) && Memory.risesAbove c.1 m

/-- The canonical form: offsets strictly rising, all in the DATA window. No listed cell equals what an
unlisted offset holds, since an unlisted offset holds no written byte. -/
def Memory.wf (m : Memory) : Bool :=
  Memory.risesAbove (dataBase - 1) m && m.all fun c => decide (c.1 < dataEnd)

/-- Block byte DATA[i] (R35): the byte written there, or the draw of the last reset (R48). -/
def State.dataByte (s : State) (i : Nat) : Byte :=
  (Memory.read s.data (dataBase + i)).getD (Config.dataDraw s.dataEpoch i)

/-- Byte i of WCOPY (R255), read as DATA is read: WCOPY is a copy of it. -/
def State.wcopyByte (s : State) (i : Nat) : Byte :=
  (Memory.read s.wcopy (dataBase + i)).getD (Config.dataDraw s.dataEpoch i)

/-- Store a byte string at DATA[i ..]. -/
def State.putData (s : State) (i : Nat) (bs : List Byte) : State :=
  { s with data := Memory.writeBytes s.data (dataBase + i) bs }

/-! ## RESP -/

/-- A byte string stored at RESP[i ..]; bytes past RESP[7] go nowhere. -/
def putAt (v : Vector Byte 8) (i : Nat) (bs : List Byte) : Vector Byte 8 :=
  Vector.ofFn fun k : Fin 8 =>
    (if i ≤ k.val then bs[k.val - i]? else none).getD (v[k.val]'k.isLt)

def State.putResp (s : State) (i : Nat) (bs : List Byte) : State :=
  { s with resp := putAt s.resp i bs }

/-! ## Draws -/

/-- The next `n` free bytes (R205), starting at draw number `d`. -/
def freeBytes (d n : Nat) : List Byte := (List.range n).map fun k => Config.freeByte (d + k)

/-- Count `n` draws as made. -/
def State.draw (s : State) (n : Nat) : State := { s with draws := s.draws + n }

/-! ## The transport port -/

/-- Issue one transport request (R40): it becomes the outstanding one and joins the byte stream (R75). -/
def State.issue (s : State) (r : Request) : State :=
  { s with req := some r, wire := r :: s.wire }

/-- Move the sequencer to a point. -/
def State.goto (s : State) (p : Point) : State := { s with seq := .run p }

/-- Request CS_ASSERT for an exchange: `cs_owned` is set before the request (R202). -/
def State.beginCsOn (s : State) (b : Exchange) : State :=
  ({ s with csOwned := true }.issue .csAssert).goto (.csOn b)

/-- Request the CS_DEASSERT that ends an exchange: `cs_owned` is cleared before the request (R203). -/
def State.beginCsOff (s : State) (b : Exchange) : State :=
  ({ s with csOwned := false }.issue .csDeassert).goto (.csOff b)

/-- Chunk `c` of a byte string (R200). -/
def chunk (size : Nat) (str : List Byte) (c : Nat) : List Byte := (str.drop (c * size)).take size

/-- The chunks of a byte string, in order: `ceil(len / CHUNK_SIZE)` of them (R200). -/
def chunks (size : Nat) (str : List Byte) : List (List Byte) :=
  (List.range ((str.length + size - 1) / size)).map (chunk size str)

/-- Request chunk `c` of the byte string `str` of a chunked transfer (R200). -/
def State.beginChunk (s : State) (x : Xfer) (str : List Byte) (c : Nat) : State :=
  (s.issue (.bulk (chunk s.params.chunkSize str c))).goto (.xfer x c)

/-- Request the next byte of a poll: one `BULK([FILL])` (R204). -/
def State.beginPoll (s : State) (k : PollKind) : State :=
  (s.issue (.bulk [Config.fill])).goto (.poll k)

/-! ## The failure path and the completion event -/

/-- The operation of a command exchange (R104, "sent by"). -/
def Cmd.op : Cmd → Op
  | .user => .sendCmd
  | .cmd0 | .cmd8 | .cmd55 | .acmd41 => .init
  | .cmd17 => .readBlock
  | .cmd24 => .writeBlock

def Xfer.op : Xfer → Op
  | .powerUp => .init
  | .frame w | .rest w => w.op
  | .block | .readCrc | .readPad => .readBlock
  | .token | .copy | .dummyCrc | .writePad => .writeBlock

def PollKind.op : PollKind → Op
  | .r1 w => w.op
  | .token => .readBlock
  | .wbusy => .writeBlock

def Exchange.op : Exchange → Op
  | .cmd w => w.op
  | .read => .readBlock
  | .write => .writeBlock

/-- The operation whose pseudocode a point belongs to: the `op` of `RUN(op, p)` (R36). -/
def Point.op : Point → Op
  | .start op => op
  | .issueCmd w => w.op
  | .csOn b | .csOff b => b.op
  | .xfer x _ => x.op
  | .poll k => k.op
  | .issueToken => .writeBlock
  | .failCs op _ => op

/-- The error kind a detail code goes with: "Each code goes with exactly one ERR kind" (R281). -/
def Detail.kind : Detail → ErrKind
  | .none => .none
  | .cmd0NotIdle | .cmd8NotIdle | .cmd8EchoMismatch | .cmd55NotIdle | .cmd17NotSuccess
  | .cmd24NotSuccess => .protocol
  | .r1PollTimeout | .initLoopTimeout | .tokenPollTimeout | .wbusyPollTimeout => .timeout
  | .xferFail | .csAssertFail | .csDeassertFail => .transport
  | .badOp | .badResplen => .illegal

/-- `End(kind, detail)` (R134): the completion event of every operation, one atomic step. It is also
the only return from a failure: "The block has no handler and no return instruction" (R287). -/
def State.endOp (s : State) (d : Detail) : State :=
  { s with err := d.kind, detail := d, csOwned := false, seq := .idle, busy := false, done := true }

/-- `raise Fail(kind, detail)` (R285): the failure path. It issues one CS_DEASSERT exactly when the
operation owns chip-select, and ends the operation with the error. -/
def State.raise (s : State) (d : Detail) : State :=
  match s.seq with
  | .idle => s.endOp d
  | .run p =>
    if s.csOwned then ({ s with csOwned := false }.issue .csDeassert).goto (.failCs p.op d)
    else s.endOp d

end Sys2Proof.Machine
end

