-- ==== Sys2Proof/Machine/Operands.lean ====
section
/-! DEFINITION. Every operand form and every view of the state: the register words the host reads
(spec/10_state.md R22 to R35, spec/40_host_ops.md R130), the operands of each command (spec/30_encoding.md
R95, R104), and the byte string of each chunked transfer. -/

namespace Sys2Proof.Machine

/-! ## Codes -/

/-- STATUS.CSST codes (R23). -/
def CsState.code : CsState → BitVec 2
  | .deasserted => 0#2
  | .asserted => 1#2
  | .unknown => 2#2

/-- STATUS.ERR codes (R280). -/
def ErrKind.code : ErrKind → BitVec 4
  | .none => 0#4
  | .transport => 1#4
  | .timeout => 2#4
  | .protocol => 3#4
  | .illegal => 4#4

/-- STATUS.DETAIL codes (R281). -/
def Detail.code : Detail → BitVec 4
  | .none => 0#4
  | .cmd0NotIdle => 1#4
  | .cmd8NotIdle => 2#4
  | .cmd8EchoMismatch => 3#4
  | .cmd55NotIdle => 4#4
  | .cmd17NotSuccess => 5#4
  | .cmd24NotSuccess => 6#4
  | .r1PollTimeout => 7#4
  | .initLoopTimeout => 8#4
  | .tokenPollTimeout => 9#4
  | .wbusyPollTimeout => 10#4
  | .xferFail => 11#4
  | .csAssertFail => 12#4
  | .csDeassertFail => 13#4
  | .badOp => 14#4
  | .badResplen => 15#4

/-- STATUS.INITST codes (R43). -/
def InitState.code : InitState → BitVec 3
  | .none => 0#3
  | .powerup => 1#3
  | .reset => 2#3
  | .ifcheck => 3#3
  | .voltneg => 4#3
  | .ready => 5#3

/-! ## Register views -/

/-- The STATUS word from its fields (R23, R130). -/
def statusBits (initst : BitVec 3) (detail err : BitVec 4) (csst : BitVec 2)
    (wign done busy : Bool) : Word :=
  0#13 ++ initst ++ detail ++ err ++ 0#3 ++ csst ++ BitVec.ofBool wign ++ BitVec.ofBool done ++
    BitVec.ofBool busy

/-- STATUS as R23 lays it out. -/
def State.statusWord (s : State) : Word :=
  statusBits s.initst.code s.detail.code s.err.code s.csst.code s.wign s.done s.busy

/-- STATUS read while BUSY = 1 (R69): BUSY 1, DONE, ERR and DETAIL 0, WIGN exact, CSST and INITST any
value, taken here from bits 1:0 and 4:2 of a free word. -/
def State.busyStatusWord (s : State) (free : Word) : Word :=
  statusBits (free.extractLsb' 2 3) 0#4 0#4 (free.extractLsb' 0 2) s.wign false true

/-- PAYLOAD: RESP[1..4], first byte most significant (R31). -/
def State.payloadWord (s : State) : Word := s.resp[1] ++ s.resp[2] ++ s.resp[3] ++ s.resp[4]

/-- R1STAT from the byte RESP[0]: RAW, VALID, IDLE, EFLAGS (R32). -/
def r1statBits (r : Byte) : Word :=
  0#16 ++ r.extractLsb' 1 6 ++ r.extractLsb' 0 1 ++ (~~~ r.extractLsb' 7 1) ++ r

def State.r1statWord (s : State) : Word := r1statBits s.resp[0]

/-- DATA word k, little-endian (R70). -/
def State.dataWord (s : State) (k : Nat) : Word :=
  s.dataByte (4 * k + 3) ++ s.dataByte (4 * k + 2) ++ s.dataByte (4 * k + 1) ++ s.dataByte (4 * k)

/-- The register at a byte offset, "built from its fields, with reserved bits 0" (R66, R130). -/
def State.readReg (s : State) (off : Nat) : Word :=
  if off = 0x000 then s.ctrlOp.zeroExtend 32
  else if off = 0x004 then s.statusWord
  else if off = 0x008 then s.cmdIdx.zeroExtend 32
  else if off = 0x00C then s.arg
  else if off = 0x010 then s.respLen.zeroExtend 32
  else if off = 0x014 then s.crcAcc.zeroExtend 32
  else if off = 0x018 then 0#32
  else if off = 0x01C then s.acmd41cnt
  else if off = 0x020 then s.wresp.zeroExtend 32
  else if off = 0x024 then s.payloadWord
  else if off = 0x028 then s.r1statWord
  else if h : 0x040 ≤ off ∧ off < 0x060 then (s.resp[(off - 0x040) / 4]'(by omega)).zeroExtend 32
  else if h : 0x060 ≤ off ∧ off < 0x078 then (s.frame[(off - 0x060) / 4]'(by omega)).zeroExtend 32
  else if 0x200 ≤ off ∧ off < 0x400 then s.dataWord ((off - 0x200) / 4)
  else 0#32

/-- The reserved offsets of the window, 0x02C to 0x03C and 0x078 to 0x1FC: no register stands there
(R61, R64). -/
def reservedOffset (off : Nat) : Bool :=
  (decide (0x02C ≤ off) && decide (off < 0x040)) || (decide (0x078 ≤ off) && decide (off < 0x200))

/-! ## Command operands -/

/-- The command index of a command exchange (R95, R104). -/
def Cmd.idx (w : Cmd) (s : State) : BitVec 6 :=
  match w with
  | .user => s.lIdx
  | .cmd0 => 0#6
  | .cmd8 => 8#6
  | .cmd55 => 55#6
  | .acmd41 => 41#6
  | .cmd17 => 17#6
  | .cmd24 => 24#6

/-- The argument of a command exchange (R95, R104, R250). -/
def Cmd.arg (w : Cmd) (s : State) : Word :=
  match w with
  | .user | .cmd17 | .cmd24 => s.lArg
  | .cmd0 => 0#32
  | .cmd8 => Config.cmd8Arg
  | .cmd55 => Config.cmd55Arg
  | .acmd41 => Config.acmd41Arg

/-- The response length of a command exchange (R104). -/
def Cmd.len (w : Cmd) (s : State) : Nat :=
  match w with
  | .user => s.lLen.toNat
  | .cmd0 | .cmd55 | .cmd17 | .cmd24 => 1
  | .cmd8 => 5
  | .acmd41 => s.params.acmd41RespLen

/-- The byte string a chunked transfer sends (R109): FILL wherever the block only reads. -/
def Xfer.outgoing (x : Xfer) (s : State) : List Byte :=
  match x with
  | .powerUp => List.replicate s.params.nPowerup Config.fill
  | .frame _ => s.frame.toList
  | .rest w => List.replicate (w.len s - 1) Config.fill
  | .block => List.replicate Config.blockSize Config.fill
  | .readCrc => List.replicate Config.crcLen Config.fill
  | .readPad | .writePad => List.replicate Config.padLen Config.fill
  | .token => [Config.startToken]
  | .copy => (List.range Config.blockSize).map s.wcopyByte
  | .dummyCrc => [0xFF#8, 0xFF#8]

/-- The number of bytes a chunked transfer moves. -/
def Xfer.size (x : Xfer) (s : State) : Nat :=
  match x with
  | .powerUp => s.params.nPowerup
  | .frame _ => 6
  | .rest w => w.len s - 1
  | .block | .copy => Config.blockSize
  | .readCrc | .dummyCrc => Config.crcLen
  | .readPad | .writePad => Config.padLen
  | .token => 1

end Sys2Proof.Machine
end

