-- ==== Sys2Proof/Machine/Flags.lean ====
section
/-! DEFINITION. What sets and clears each flag (spec/10_state.md R44): BUSY, DONE and WIGN at the start of
an operation and at a dropped write, CSST at a chip-select answer (R41); and the tests the sequencer
makes: the byte test of each poll, and the deadline test (spec/43_chunked_transfer.md R204,
spec/60_exceptions.md R292). -/

namespace Sys2Proof.Machine

/-- A host write dropped because BUSY = 1 sets WIGN and changes nothing else (R68). -/
def State.dropWrite (s : State) : State := { s with wign := true }

/-- CSST after an answer to a CS_ASSERT (R41). -/
def State.csAssertAnswered (s : State) (ok : Bool) : State :=
  { s with csst := if ok then .asserted else .unknown }

/-- CSST after an answer to a CS_DEASSERT (R41). -/
def State.csDeassertAnswered (s : State) (ok : Bool) : State :=
  { s with csst := if ok then .deasserted else .unknown }

/-- Elapsed time between an anchor and a sample: `(t - T0) mod 2^TIME_WIDTH` (R292). -/
def elapsed (width t t0 : Nat) : Nat := (t + 2 ^ width - t0 % 2 ^ width) % 2 ^ width

/-- "elapsed > D" (R204): elapsed exactly D is still in time. -/
def State.late (s : State) (anchor deadline : Nat) : Bool :=
  decide (deadline < elapsed s.params.timeWidth s.now anchor)

/-- The byte test of a poll: bit 7 clear (R172), the token 0xFE (R253), non-zero (R258). -/
def PollKind.matched : PollKind → Byte → Bool
  | .r1 _, b => !b.getLsbD 7
  | .token, b => b == Config.startToken
  | .wbusy, b => b != 0x00#8

/-- The deadline of a poll (R173, R253, R258). -/
def PollKind.deadline (k : PollKind) (s : State) : Nat :=
  match k with
  | .r1 w => s.params.tR1[(w.idx s).toNat]'(by have := (w.idx s).isLt; omega)
  | .token => s.params.tToken
  | .wbusy => s.params.tWbusy

/-- The detail code of a poll that passes its deadline (R173, R253, R258). -/
def PollKind.timeoutDetail : PollKind → Detail
  | .r1 _ => .r1PollTimeout
  | .token => .tokenPollTimeout
  | .wbusy => .wbusyPollTimeout

end Sys2Proof.Machine
end

