-- ==== Sys2Proof/Machine/Transfer.lean ====
section
/-! DEFINITION. The shared procedures of spec/42_command_framer.md and spec/43_chunked_transfer.md: entering
a command exchange (BuildFrame and what SendCommand does before its first request), the chunked transfer,
and a poll that reads a byte it does not want. -/

namespace Sys2Proof.Machine

/-- Start a chunked transfer: request its first chunk (R200). -/
def State.beginXfer (s : State) (x : Xfer) : State := s.beginChunk x (x.outgoing s) 0

/-- Enter a command exchange: BuildFrame writes FRAME (R170), and the frame is the next thing sent. -/
def State.enterCmd (s : State) (w : Cmd) : State :=
  { s with frame := buildFrame (w.idx s) (w.arg s), seq := .run (.issueCmd w) }

/-- SendCommand up to its first request (R171): RESP all 0xFF, FRAME holds the frame, T0 sampled before
CS_ASSERT (R173), CS_ASSERT requested. -/
def State.openCommand (s : State) (w : Cmd) (frame : Vector Byte 6) : State :=
  { s with resp := Vector.replicate 8 0xFF#8, frame := frame, t0 := s.now }.beginCsOn (.cmd w)

/-- The R1 byte ends its poll (R171 steps 4 to 6): it goes to RESP[0]; the response bytes after it are
read if the command asks for more than one, and the exchange is closed if not. -/
def State.storeR1 (s : State) (w : Cmd) (r : Byte) : State :=
  let s := s.putResp 0 [r]
  if 1 < w.len s then s.beginXfer (.rest w) else s.beginCsOff (.cmd w)

/-- A poll byte that does not match (R204): one time sample, then the deadline test, then the next
byte. -/
def State.pollMiss (s : State) (k : PollKind) : State :=
  if s.late s.t0 (k.deadline s) then s.raise k.timeoutDetail else s.beginPoll k

/-- Where the bytes of a chunk answered `ok` go: RESP for a response remainder (R171, R174), DATA for a
read block (R252), nowhere else (R109: "discarded"). -/
def State.land (s : State) (x : Xfer) (c : Nat) (bs : List Byte) : State :=
  match x with
  | .rest _ => s.putResp (1 + c * s.params.chunkSize) bs
  | .block => s.putData (c * s.params.chunkSize) bs
  | .powerUp | .frame _ | .readCrc | .readPad | .token | .copy | .dummyCrc | .writePad => s

/-- What chunk `c` answered `fail` leaves: free bytes where its own bytes would have landed, in RESP for a
response remainder and in DATA for a read block, and nothing before, after or elsewhere (R205, R252, R286;
for RESP log entry 27). -/
def State.lose (s : State) (x : Xfer) (c : Nat) : State :=
  let n := min s.params.chunkSize (x.size s - c * s.params.chunkSize)
  match x with
  | .rest _ => (s.putResp (1 + c * s.params.chunkSize) (freeBytes s.draws n)).draw n
  | .block => (s.putData (c * s.params.chunkSize) (freeBytes s.draws n)).draw n
  | .powerUp | .frame _ | .readCrc | .readPad | .token | .copy | .dummyCrc | .writePad => s

/-- Whether chunk `c` is not the last of a transfer (R200). -/
def State.moreChunks (s : State) (x : Xfer) (c : Nat) : Bool :=
  decide ((c + 1) * s.params.chunkSize < x.size s)

end Sys2Proof.Machine
end

