-- ==== Sys2Proof/Machine/Frames.lean ====
section
/-! DEFINITION. The command frames (spec/30_encoding.md R100, R104). A frame's meaning is what SendCommand
does with it up to its first request (spec/42_command_framer.md R171); the operation that sends it is the
one the sequencer is in, and the rest of the exchange is Machine/Sequencer.lean. -/

namespace Sys2Proof.Machine

/-- Send a frame from the point that is about to send one (R171). The block sends a frame nowhere
else. -/
def sendFrame (frame : Vector Byte 6) (s : State) : Host.Outcome State Fault Refusal :=
  match s.seq with
  | .run (.issueCmd w) => .next (s.openCommand w frame)
  | .idle | .run (.start _) | .run (.csOn _) | .run (.xfer _ _) | .run (.poll _)
  | .run .issueToken | .run (.csOff _) | .run (.failCs _ _) => .refused .wireOutOfPlace

/-- ACMD41CNT + 1, saturating at 0xFFFFFFFF (R29). -/
def saturatingSucc (n : Word) : Word := if n = 0xFFFFFFFF#32 then n else n + 1#32

/-- CMDn: any command sent by SEND_CMD (R100, R178, R110). -/
def execCmdn (idx : BitVec 6) (arg : Word) (crc : BitVec 7) (s : State) :
    Host.Outcome State Fault Refusal :=
  sendFrame (frameBytes idx arg crc) s

/-- CMD0: the frame 40 00 00 00 00 95 (R222). -/
def execCmd0 (s : State) : Host.Outcome State Fault Refusal :=
  sendFrame #v[0x40#8, 0x00#8, 0x00#8, 0x00#8, 0x00#8, 0x95#8] s

/-- CMD8: the frame 48 00 00 01 AA 87 (R223). -/
def execCmd8 (s : State) : Host.Outcome State Fault Refusal :=
  sendFrame #v[0x48#8, 0x00#8, 0x00#8, 0x01#8, 0xAA#8, 0x87#8] s

/-- CMD55: the frame 77 00 00 00 00 65 (R225). -/
def execCmd55 (s : State) : Host.Outcome State Fault Refusal :=
  sendFrame #v[0x77#8, 0x00#8, 0x00#8, 0x00#8, 0x00#8, 0x65#8] s

/-- ACMD41: the frame 69 40 00 00 00 77. INIT counts it first (R226, R29); SEND_CMD "never changes
... ACMD41CNT" (R178). -/
def execAcmd41 (s : State) : Host.Outcome State Fault Refusal :=
  sendFrame #v[0x69#8, 0x40#8, 0x00#8, 0x00#8, 0x00#8, 0x77#8]
    (if s.seq = .run (.issueCmd .acmd41) then
      { s with acmd41cnt := saturatingSucc s.acmd41cnt } else s)

/-- CMD17: a block read at address `arg` (R251). -/
def execCmd17 (arg : Word) (crc : BitVec 7) (s : State) : Host.Outcome State Fault Refusal :=
  sendFrame (frameBytes 17#6 arg crc) s

/-- CMD24: a block write at address `arg` (R256). -/
def execCmd24 (arg : Word) (crc : BitVec 7) (s : State) : Host.Outcome State Fault Refusal :=
  sendFrame (frameBytes 24#6 arg crc) s

end Sys2Proof.Machine
end

