-- ==== Sys2Proof/Machine/HostAccess.lean ====
section
/-! DEFINITION. The host accesses that read a register or write an operand register, the CRC registers
or DATA (spec/40_host_ops.md R130, R131; spec/41_crc7.md R152, R153). -/

namespace Sys2Proof.Machine

/-- A write to a writable register: dropped, with WIGN set, while BUSY = 1 (R68); otherwise done. -/
def hostWrite (s done : State) : Host.Outcome State Fault Refusal :=
  if s.busy then .next s.dropWrite else .next done

/-- HOST_READ (R130). A reserved offset reads 0, busy or not (R64, log entry 24). With BUSY = 1 a STATUS
read is exact but for CSST and INITST, and a read of any other register returns any value (R69). -/
def execHostRead (off : BitVec 10) (s : State) : Host.Outcome State Fault Refusal :=
  if off.extractLsb' 0 2 ≠ 0#2 then .refused .misaligned
  else if s.busy && !reservedOffset off.toNat then
    if off = 0x004#10 then
      .next ({ s with rdata := s.busyStatusWord (Config.freeWord s.draws) }.draw 1)
    else .next ({ s with rdata := Config.freeWord s.draws }.draw 1)
  else .next { s with rdata := s.readReg off.toNat }

/-- WR_CMD: `CMD.IDX <- v[5:0]` (R131). -/
def execWrCmd (idx : BitVec 6) (s : State) : Host.Outcome State Fault Refusal :=
  hostWrite s { s with cmdIdx := idx }

/-- WR_ARG: `ARG <- v` (R131). -/
def execWrArg (arg : Word) (s : State) : Host.Outcome State Fault Refusal :=
  hostWrite s { s with arg := arg }

/-- WR_RESPLEN: `RESPLEN.LEN <- v[3:0]`, any value stored (R131). -/
def execWrResplen (len : BitVec 4) (s : State) : Host.Outcome State Fault Refusal :=
  hostWrite s { s with respLen := len }

/-- CRC_SET: `CRC.ACC <- v[6:0]` (R152). -/
def execCrcSet (acc : BitVec 7) (s : State) : Host.Outcome State Fault Refusal :=
  hostWrite s { s with crcAcc := acc }

/-- CRC_FEED: `CRC.ACC <- crc7_update(v[7:0], CRC.ACC)` (R153). -/
def execCrcFeed (b : Byte) (s : State) : Host.Outcome State Fault Refusal :=
  hostWrite s { s with crcAcc := crc7Update b s.crcAcc }

/-- WR_DATA: block bytes 4k .. 4k+3, the low byte first (R131, R70). -/
def execWrData (k : BitVec 7) (b0 b1 b2 b3 : Byte) (s : State) :
    Host.Outcome State Fault Refusal :=
  hostWrite s (s.putData (4 * k.toNat) [b0, b1, b2, b3])

end Sys2Proof.Machine
end

