-- ==== Sys2Proof/Machine/HostIgnored.lean ====
section
/-! DEFINITION. WR_IGNORED: writes to read-only and reserved offsets (spec/40_host_ops.md R135): "no
effect ... WIGN is not set even when BUSY = 1". -/

namespace Sys2Proof.Machine

/-- The effect of a write at a read-only or reserved offset: none (R135). -/
def ignoredWrite (s : State) : Host.Outcome State Fault Refusal := .next s

def execWrIgnoredStatus (s : State) : Host.Outcome State Fault Refusal := ignoredWrite s

def execWrIgnoredAcmd41cnt (s : State) : Host.Outcome State Fault Refusal := ignoredWrite s

def execWrIgnoredWresp (s : State) : Host.Outcome State Fault Refusal := ignoredWrite s

def execWrIgnoredPayload (s : State) : Host.Outcome State Fault Refusal := ignoredWrite s

def execWrIgnoredR1stat (s : State) : Host.Outcome State Fault Refusal := ignoredWrite s

def execWrIgnoredRsv02C (s : State) : Host.Outcome State Fault Refusal := ignoredWrite s

/-- Reserved offset 0x030 + 4·sel. -/
def execWrIgnoredRsv030To03C (_sel : BitVec 2) (s : State) : Host.Outcome State Fault Refusal :=
  ignoredWrite s

/-- RESP[sel] is read-only (R33). -/
def execWrIgnoredResp (_sel : BitVec 3) (s : State) : Host.Outcome State Fault Refusal :=
  ignoredWrite s

/-- FRAME[sel] is read-only (R34); 0x078 and 0x07C are reserved. -/
def execWrIgnoredFrame060To07C (_sel : BitVec 3) (s : State) : Host.Outcome State Fault Refusal :=
  ignoredWrite s

/-- Reserved offset 0x080 + 4·sel. -/
def execWrIgnoredRsv080To0FC (_sel : BitVec 5) (s : State) : Host.Outcome State Fault Refusal :=
  ignoredWrite s

/-- Reserved offset 0x100 + 4·sel. -/
def execWrIgnoredRsv100To1FC (_sel : BitVec 6) (s : State) : Host.Outcome State Fault Refusal :=
  ignoredWrite s

end Sys2Proof.Machine
end

