-- ==== Sys2Proof/Syntax.lean ====
section
/-! DEFINITION. One constructor per row of spec/opcode_table.json, in the table's order: the 26 host
accesses (spec/30_encoding.md R91), the seven command frames (R100, R104) and the four bytes or byte
strings the card and the block exchange beside them (R105 to R108). Bits a row ignores are no operand. -/

namespace Sys2Proof

/-- The wire and host formats of R90 that an instruction is read from. -/
inductive Format where
  /-- One 32-bit bus access, a 43-bit value (R91). -/
  | hostAccess
  /-- A 48-bit command frame (R100). -/
  | cmdFrame
  /-- A response byte (R105). -/
  | r1
  /-- A response byte and four payload bytes (R106). -/
  | r1Payload
  /-- The data-start token (R107). -/
  | dataStart
  /-- The write status/busy byte (R108). -/
  | writeStatus
  deriving DecidableEq, Repr

inductive Instr where
  /-- HOST_READ: read the register at byte offset `off` (R130). -/
  | hostRead (off : BitVec 10)
  /-- SEND_CMD: CTRL write with op code 1 (R178). -/
  | sendCmd
  /-- INIT: CTRL write with op code 2 (R220). -/
  | init
  /-- READ_BLOCK: CTRL write with op code 3 (R251). -/
  | readBlock
  /-- WRITE_BLOCK: CTRL write with op code 4 (R256). -/
  | writeBlock
  /-- OP_RESERVED_0: CTRL write with op code 0 (R133). -/
  | opReserved0
  /-- OP_RESERVED_5: CTRL write with op code 5 (R133). -/
  | opReserved5
  /-- OP_RESERVED_6: CTRL write with op code 6 (R133). -/
  | opReserved6
  /-- OP_RESERVED_7: CTRL write with op code 7 (R133). -/
  | opReserved7
  /-- WR_CMD: write CMD.IDX (R131). -/
  | wrCmd (idx : BitVec 6)
  /-- WR_ARG: write ARG (R131). -/
  | wrArg (arg : Word)
  /-- WR_RESPLEN: write RESPLEN.LEN (R131). -/
  | wrResplen (len : BitVec 4)
  /-- CRC_SET: load CRC.ACC (R152). -/
  | crcSet (acc : BitVec 7)
  /-- CRC_FEED: advance CRC.ACC by one byte (R153). -/
  | crcFeed (b : Byte)
  /-- WR_DATA: write DATA word `k`; `b0` is block byte `4k` (R131, R70). -/
  | wrData (k : BitVec 7) (b0 b1 b2 b3 : Byte)
  /-- WR_IGNORED_STATUS: a write at 0x004 (R135). -/
  | wrIgnoredStatus
  /-- WR_IGNORED_ACMD41CNT: a write at 0x01C (R135). -/
  | wrIgnoredAcmd41cnt
  /-- WR_IGNORED_WRESP: a write at 0x020 (R135). -/
  | wrIgnoredWresp
  /-- WR_IGNORED_PAYLOAD: a write at 0x024 (R135). -/
  | wrIgnoredPayload
  /-- WR_IGNORED_R1STAT: a write at 0x028 (R135). -/
  | wrIgnoredR1stat
  /-- WR_IGNORED_RSV_02C: a write at 0x02C (R135). -/
  | wrIgnoredRsv02C
  /-- WR_IGNORED_RSV_030_03C: a write at 0x030 + 4·sel (R135). -/
  | wrIgnoredRsv030To03C (sel : BitVec 2)
  /-- WR_IGNORED_RESP: a write at 0x040 + 4·sel (R135). -/
  | wrIgnoredResp (sel : BitVec 3)
  /-- WR_IGNORED_FRAME_060_07C: a write at 0x060 + 4·sel (R135). -/
  | wrIgnoredFrame060To07C (sel : BitVec 3)
  /-- WR_IGNORED_RSV_080_0FC: a write at 0x080 + 4·sel (R135). -/
  | wrIgnoredRsv080To0FC (sel : BitVec 5)
  /-- WR_IGNORED_RSV_100_1FC: a write at 0x100 + 4·sel (R135). -/
  | wrIgnoredRsv100To1FC (sel : BitVec 6)
  /-- CMDn: the frame of any command that has no row of its own (R100). -/
  | cmdn (idx : BitVec 6) (arg : Word) (crc : BitVec 7)
  /-- CMD0: the frame 40 00 00 00 00 95 (R222). -/
  | cmd0
  /-- CMD8: the frame 48 00 00 01 AA 87 (R223). -/
  | cmd8
  /-- CMD55: the frame 77 00 00 00 00 65 (R225). -/
  | cmd55
  /-- ACMD41: the frame 69 40 00 00 00 77 (R226). -/
  | acmd41
  /-- CMD17: the frame of a block read at address `arg` (R251). -/
  | cmd17 (arg : Word) (crc : BitVec 7)
  /-- CMD24: the frame of a block write at address `arg` (R256). -/
  | cmd24 (arg : Word) (crc : BitVec 7)
  /-- R1: a response byte with bit 7 = 0: error flags `e`, idle bit `i` (R105). -/
  | r1 (e : BitVec 6) (i : BitVec 1)
  /-- R1_PAYLOAD: a response byte and its four payload bytes, big-endian (R106). -/
  | r1Payload (e : BitVec 6) (i : BitVec 1) (p : Word)
  /-- DATA_START: the token 0xFE (R107). -/
  | dataStart
  /-- WRITE_STATUS: the byte read in the write busy poll (R108). -/
  | writeStatus (b : Byte)
  deriving DecidableEq, Repr

/-- The row's mnemonic in spec/opcode_table.json. -/
def Instr.mnemonic : Instr → String
  | .hostRead _ => "HOST_READ"
  | .sendCmd => "SEND_CMD"
  | .init => "INIT"
  | .readBlock => "READ_BLOCK"
  | .writeBlock => "WRITE_BLOCK"
  | .opReserved0 => "OP_RESERVED_0"
  | .opReserved5 => "OP_RESERVED_5"
  | .opReserved6 => "OP_RESERVED_6"
  | .opReserved7 => "OP_RESERVED_7"
  | .wrCmd _ => "WR_CMD"
  | .wrArg _ => "WR_ARG"
  | .wrResplen _ => "WR_RESPLEN"
  | .crcSet _ => "CRC_SET"
  | .crcFeed _ => "CRC_FEED"
  | .wrData _ _ _ _ _ => "WR_DATA"
  | .wrIgnoredStatus => "WR_IGNORED_STATUS"
  | .wrIgnoredAcmd41cnt => "WR_IGNORED_ACMD41CNT"
  | .wrIgnoredWresp => "WR_IGNORED_WRESP"
  | .wrIgnoredPayload => "WR_IGNORED_PAYLOAD"
  | .wrIgnoredR1stat => "WR_IGNORED_R1STAT"
  | .wrIgnoredRsv02C => "WR_IGNORED_RSV_02C"
  | .wrIgnoredRsv030To03C _ => "WR_IGNORED_RSV_030_03C"
  | .wrIgnoredResp _ => "WR_IGNORED_RESP"
  | .wrIgnoredFrame060To07C _ => "WR_IGNORED_FRAME_060_07C"
  | .wrIgnoredRsv080To0FC _ => "WR_IGNORED_RSV_080_0FC"
  | .wrIgnoredRsv100To1FC _ => "WR_IGNORED_RSV_100_1FC"
  | .cmdn _ _ _ => "CMDn"
  | .cmd0 => "CMD0"
  | .cmd8 => "CMD8"
  | .cmd55 => "CMD55"
  | .acmd41 => "ACMD41"
  | .cmd17 _ _ => "CMD17"
  | .cmd24 _ _ => "CMD24"
  | .r1 _ _ => "R1"
  | .r1Payload _ _ _ => "R1_PAYLOAD"
  | .dataStart => "DATA_START"
  | .writeStatus _ => "WRITE_STATUS"

/-- The format a row of the table has ("format" in spec/opcode_table.json). -/
def Instr.format : Instr → Format
  | .cmdn _ _ _ | .cmd0 | .cmd8 | .cmd55 | .acmd41 | .cmd17 _ _ | .cmd24 _ _ => .cmdFrame
  | .r1 _ _ => .r1
  | .r1Payload _ _ _ => .r1Payload
  | .dataStart => .dataStart
  | .writeStatus _ => .writeStatus
  | .hostRead _ | .sendCmd | .init | .readBlock | .writeBlock
  | .opReserved0 | .opReserved5 | .opReserved6 | .opReserved7
  | .wrCmd _ | .wrArg _ | .wrResplen _ | .crcSet _ | .crcFeed _ | .wrData _ _ _ _ _
  | .wrIgnoredStatus | .wrIgnoredAcmd41cnt | .wrIgnoredWresp | .wrIgnoredPayload
  | .wrIgnoredR1stat | .wrIgnoredRsv02C | .wrIgnoredRsv030To03C _ | .wrIgnoredResp _
  | .wrIgnoredFrame060To07C _ | .wrIgnoredRsv080To0FC _ | .wrIgnoredRsv100To1FC _ => .hostAccess

end Sys2Proof
end

