-- ==== Sys2Proof/WellFormed.lean ====
section
/-! DEFINITION. The checks a term of `Instr` meets when it stands for an encoding the spec gives:
the alignment of a read (spec/20_memory.md R62), the CRC7 field of a frame (spec/30_encoding.md R103),
and that CMDn is used only for a frame no other row names. -/

namespace Sys2Proof

/-- Whether a command index and argument have a frame row of their own in spec/opcode_table.json
(R104). -/
def namedFrame (idx : BitVec 6) (arg : Word) : Bool :=
  (idx == 0#6 && arg == 0#32) || (idx == 8#6 && arg == Config.cmd8Arg) ||
  (idx == 55#6 && arg == Config.cmd55Arg) || (idx == 41#6 && arg == Config.acmd41Arg) ||
  idx == 17#6 || idx == 24#6

def Instr.wellFormed : Instr → Bool
  | .hostRead off => off.extractLsb' 0 2 == 0#2
  | .cmdn idx arg crc => crc == Machine.frameCrc idx arg && !namedFrame idx arg
  | .cmd17 arg crc => crc == Machine.frameCrc 17#6 arg
  | .cmd24 arg crc => crc == Machine.frameCrc 24#6 arg
  | .sendCmd | .init | .readBlock | .writeBlock
  | .opReserved0 | .opReserved5 | .opReserved6 | .opReserved7
  | .wrCmd _ | .wrArg _ | .wrResplen _ | .crcSet _ | .crcFeed _ | .wrData _ _ _ _ _
  | .wrIgnoredStatus | .wrIgnoredAcmd41cnt | .wrIgnoredWresp | .wrIgnoredPayload
  | .wrIgnoredR1stat | .wrIgnoredRsv02C | .wrIgnoredRsv030To03C _ | .wrIgnoredResp _
  | .wrIgnoredFrame060To07C _ | .wrIgnoredRsv080To0FC _ | .wrIgnoredRsv100To1FC _
  | .cmd0 | .cmd8 | .cmd55 | .acmd41
  | .r1 _ _ | .r1Payload _ _ _ | .dataStart | .writeStatus _ => true

end Sys2Proof
end

