-- ==== Sys2Proof/Decode.lean ====
section
/-! DEFINITION. The decoder, total on any bytes and rejecting by name, the encoder written from the same
tables, and the host rows of spec/opcode_table.json as match/mask pairs (spec/30_encoding.md R90 to R108,
R113). A format's bytes stand in wire order, the first byte the most significant; a HOST_ACCESS is the
43-bit value of R91 in six bytes the same way, its top five bits 0. -/

namespace Sys2Proof

/-- Why a decoder refuses. -/
inductive DecodeError where
  /-- Not the number of bytes the format has (R90). -/
  | badLength
  /-- Bits above bit 42 of a HOST_ACCESS are set (R91). -/
  | reservedBits
  /-- `off[1:0] ≠ 0` (R63, R91). -/
  | misaligned
  /-- Bits 47:46 of a frame are not `01` (R100). -/
  | badStartBits
  /-- Bit 0 of a frame is not 1 (R100). -/
  | badStopBit
  /-- Bit 7 is 1: the card has not answered yet (R105). -/
  | notAResponse
  /-- Not the byte 0xFE (R107). -/
  | notTheToken
  deriving DecidableEq, Repr

/-- A write at offset 0x000 by its op code, `data[2:0]` (R92). -/
def decodeCtrl (op : BitVec 3) : Instr :=
  if op = 1#3 then .sendCmd
  else if op = 2#3 then .init
  else if op = 3#3 then .readBlock
  else if op = 4#3 then .writeBlock
  else if op = 5#3 then .opReserved5
  else if op = 6#3 then .opReserved6
  else if op = 7#3 then .opReserved7
  else .opReserved0

/-- A write at an aligned offset below 0x040 (R113, R61). -/
def decodeLowWrite (off : BitVec 10) (data : Word) : Instr :=
  if off = 0x000#10 then decodeCtrl (data.extractLsb' 0 3)
  else if off = 0x004#10 then .wrIgnoredStatus
  else if off = 0x008#10 then .wrCmd (data.extractLsb' 0 6)
  else if off = 0x00C#10 then .wrArg data
  else if off = 0x010#10 then .wrResplen (data.extractLsb' 0 4)
  else if off = 0x014#10 then .crcSet (data.extractLsb' 0 7)
  else if off = 0x018#10 then .crcFeed (data.extractLsb' 0 8)
  else if off = 0x01C#10 then .wrIgnoredAcmd41cnt
  else if off = 0x020#10 then .wrIgnoredWresp
  else if off = 0x024#10 then .wrIgnoredPayload
  else if off = 0x028#10 then .wrIgnoredR1stat
  else if off = 0x02C#10 then .wrIgnoredRsv02C
  else .wrIgnoredRsv030To03C (off.extractLsb' 2 2)

/-- A write at an aligned offset (R113): the DATA window, the reserved ranges, the read-only buffers,
and the registers below 0x040. -/
def decodeWrite (off : BitVec 10) (data : Word) : Instr :=
  if off.extractLsb' 9 1 = 1#1 then
    .wrData (off.extractLsb' 2 7) (data.extractLsb' 0 8) (data.extractLsb' 8 8)
      (data.extractLsb' 16 8) (data.extractLsb' 24 8)
  else if off.extractLsb' 8 2 = 1#2 then .wrIgnoredRsv100To1FC (off.extractLsb' 2 6)
  else if off.extractLsb' 7 3 = 1#3 then .wrIgnoredRsv080To0FC (off.extractLsb' 2 5)
  else if off.extractLsb' 5 5 = 3#5 then .wrIgnoredFrame060To07C (off.extractLsb' 2 3)
  else if off.extractLsb' 5 5 = 2#5 then .wrIgnoredResp (off.extractLsb' 2 3)
  else decodeLowWrite off data

/-- A host access given as (rw, off, data) (R113). -/
def decodeHost (rw : Bool) (off : BitVec 10) (data : Word) : Except DecodeError Instr :=
  if off.extractLsb' 0 2 ≠ 0#2 then .error .misaligned
  else if rw then .ok (decodeWrite off data)
  else .ok (.hostRead off)

/-- The command a frame's fields stand for: a row of its own (R104), or CMDn. -/
def decodeFrameFields (idx : BitVec 6) (arg : Word) (crc : BitVec 7) : Instr :=
  if idx = 17#6 then .cmd17 arg crc
  else if idx = 24#6 then .cmd24 arg crc
  else if idx = 0#6 ∧ arg = 0x00000000#32 ∧ crc = 0x4A#7 then .cmd0
  else if idx = 8#6 ∧ arg = 0x000001AA#32 ∧ crc = 0x43#7 then .cmd8
  else if idx = 55#6 ∧ arg = 0x00000000#32 ∧ crc = 0x32#7 then .cmd55
  else if idx = 41#6 ∧ arg = 0x40000000#32 ∧ crc = 0x3B#7 then .acmd41
  else .cmdn idx arg crc

/-- A command frame, bit 47 first on the wire (R100). -/
def decodeFrame (w : BitVec 48) : Except DecodeError Instr :=
  if w.extractLsb' 46 2 ≠ 1#2 then .error .badStartBits
  else if w.extractLsb' 0 1 ≠ 1#1 then .error .badStopBit
  else .ok (decodeFrameFields (w.extractLsb' 40 6) (w.extractLsb' 8 32) (w.extractLsb' 1 7))

/-- A byte read in the R1 poll (R105): bit 7 = 0 marks a valid response. -/
def decodeR1 (b : Byte) : Except DecodeError Instr :=
  if b.extractLsb' 7 1 ≠ 0#1 then .error .notAResponse
  else .ok (.r1 (b.extractLsb' 1 6) (b.extractLsb' 0 1))

/-- A response byte and the four payload bytes after it (R106). -/
def decodeR1Payload (b : Byte) (p : Word) : Except DecodeError Instr :=
  if b.extractLsb' 7 1 ≠ 0#1 then .error .notAResponse
  else .ok (.r1Payload (b.extractLsb' 1 6) (b.extractLsb' 0 1) p)

/-- A byte read in the token poll (R107). -/
def decodeDataStart (b : Byte) : Except DecodeError Instr :=
  if b = Config.startToken then .ok .dataStart else .error .notTheToken

/-- Six bytes as one number, the first the most significant. -/
def join48 (b0 b1 b2 b3 b4 b5 : Byte) : BitVec 48 := b0 ++ b1 ++ b2 ++ b3 ++ b4 ++ b5

/-- Four bytes as one number, the first the most significant (R71). -/
def join32 (b0 b1 b2 b3 : Byte) : Word := b0 ++ b1 ++ b2 ++ b3

/-- The decoder. -/
def decode : Format → List Byte → Except DecodeError Instr
  | .hostAccess, [b0, b1, b2, b3, b4, b5] =>
    let w := join48 b0 b1 b2 b3 b4 b5
    if w.extractLsb' 43 5 ≠ 0#5 then .error .reservedBits
    else decodeHost (w.getLsbD 42) (w.extractLsb' 32 10) (w.extractLsb' 0 32)
  | .cmdFrame, [b0, b1, b2, b3, b4, b5] => decodeFrame (join48 b0 b1 b2 b3 b4 b5)
  | .r1, [b] => decodeR1 b
  | .r1Payload, [b, p1, p2, p3, p4] => decodeR1Payload b (join32 p1 p2 p3 p4)
  | .dataStart, [b] => decodeDataStart b
  | .writeStatus, [b] => .ok (.writeStatus b)
  | _, _ => .error .badLength

/-- The 43-bit HOST_ACCESS value of R91 as six bytes. -/
def hostBytes (rw : Bool) (off : BitVec 10) (data : Word) : List Byte :=
  let w : BitVec 48 := 0#5 ++ BitVec.ofBool rw ++ off ++ data
  [w.extractLsb' 40 8, w.extractLsb' 32 8, w.extractLsb' 24 8, w.extractLsb' 16 8,
   w.extractLsb' 8 8, w.extractLsb' 0 8]

/-- A response byte from its fields (R105). -/
def r1Byte (e : BitVec 6) (i : BitVec 1) : Byte := 0#1 ++ e ++ i

/-- The encoder: the bytes of a row with its operands. Bits the block ignores are 0. -/
def encode : Instr → List Byte
  | .hostRead off => hostBytes false off 0#32
  | .sendCmd => hostBytes true 0x000#10 1#32
  | .init => hostBytes true 0x000#10 2#32
  | .readBlock => hostBytes true 0x000#10 3#32
  | .writeBlock => hostBytes true 0x000#10 4#32
  | .opReserved0 => hostBytes true 0x000#10 0#32
  | .opReserved5 => hostBytes true 0x000#10 5#32
  | .opReserved6 => hostBytes true 0x000#10 6#32
  | .opReserved7 => hostBytes true 0x000#10 7#32
  | .wrCmd idx => hostBytes true 0x008#10 (idx.zeroExtend 32)
  | .wrArg arg => hostBytes true 0x00C#10 arg
  | .wrResplen len => hostBytes true 0x010#10 (len.zeroExtend 32)
  | .crcSet acc => hostBytes true 0x014#10 (acc.zeroExtend 32)
  | .crcFeed b => hostBytes true 0x018#10 (b.zeroExtend 32)
  | .wrData k b0 b1 b2 b3 => hostBytes true (1#1 ++ k ++ 0#2) (b3 ++ b2 ++ b1 ++ b0)
  | .wrIgnoredStatus => hostBytes true 0x004#10 0#32
  | .wrIgnoredAcmd41cnt => hostBytes true 0x01C#10 0#32
  | .wrIgnoredWresp => hostBytes true 0x020#10 0#32
  | .wrIgnoredPayload => hostBytes true 0x024#10 0#32
  | .wrIgnoredR1stat => hostBytes true 0x028#10 0#32
  | .wrIgnoredRsv02C => hostBytes true 0x02C#10 0#32
  | .wrIgnoredRsv030To03C sel => hostBytes true (3#6 ++ sel ++ 0#2) 0#32
  | .wrIgnoredResp sel => hostBytes true (2#5 ++ sel ++ 0#2) 0#32
  | .wrIgnoredFrame060To07C sel => hostBytes true (3#5 ++ sel ++ 0#2) 0#32
  | .wrIgnoredRsv080To0FC sel => hostBytes true (1#3 ++ sel ++ 0#2) 0#32
  | .wrIgnoredRsv100To1FC sel => hostBytes true (1#2 ++ sel ++ 0#2) 0#32
  | .cmdn idx arg crc => (Machine.frameBytes idx arg crc).toList
  | .cmd0 => [0x40#8, 0x00#8, 0x00#8, 0x00#8, 0x00#8, 0x95#8]
  | .cmd8 => [0x48#8, 0x00#8, 0x00#8, 0x01#8, 0xAA#8, 0x87#8]
  | .cmd55 => [0x77#8, 0x00#8, 0x00#8, 0x00#8, 0x00#8, 0x65#8]
  | .acmd41 => [0x69#8, 0x40#8, 0x00#8, 0x00#8, 0x00#8, 0x77#8]
  | .cmd17 arg crc => (Machine.frameBytes 17#6 arg crc).toList
  | .cmd24 arg crc => (Machine.frameBytes 24#6 arg crc).toList
  | .r1 e i => [r1Byte e i]
  | .r1Payload e i p =>
    [r1Byte e i, Machine.byteOf p 3, Machine.byteOf p 2, Machine.byteOf p 1, Machine.byteOf p 0]
  | .dataStart => [Config.startToken]
  | .writeStatus b => [b]

/-- The match and mask of a host row of spec/opcode_table.json, bit 42 the write bit (R91). -/
structure HostRow where
  mnemonic : String
  pattern : BitVec 43
  mask : BitVec 43
  deriving DecidableEq, Repr

/-- The rows of spec/opcode_table.json for accesses to CTRL and the operand registers. -/
def hostRowsOperand : List HostRow :=
  [⟨"HOST_READ", 0x00000000000#43, 0x40300000000#43⟩,
   ⟨"SEND_CMD", 0x40000000001#43, 0x7FF00000007#43⟩,
   ⟨"INIT", 0x40000000002#43, 0x7FF00000007#43⟩,
   ⟨"READ_BLOCK", 0x40000000003#43, 0x7FF00000007#43⟩,
   ⟨"WRITE_BLOCK", 0x40000000004#43, 0x7FF00000007#43⟩,
   ⟨"OP_RESERVED_0", 0x40000000000#43, 0x7FF00000007#43⟩,
   ⟨"OP_RESERVED_5", 0x40000000005#43, 0x7FF00000007#43⟩,
   ⟨"OP_RESERVED_6", 0x40000000006#43, 0x7FF00000007#43⟩,
   ⟨"OP_RESERVED_7", 0x40000000007#43, 0x7FF00000007#43⟩,
   ⟨"WR_CMD", 0x40800000000#43, 0x7FF00000000#43⟩,
   ⟨"WR_ARG", 0x40C00000000#43, 0x7FF00000000#43⟩,
   ⟨"WR_RESPLEN", 0x41000000000#43, 0x7FF00000000#43⟩,
   ⟨"CRC_SET", 0x41400000000#43, 0x7FF00000000#43⟩,
   ⟨"CRC_FEED", 0x41800000000#43, 0x7FF00000000#43⟩,
   ⟨"WR_DATA", 0x60000000000#43, 0x60300000000#43⟩]

/-- The rows of spec/opcode_table.json for writes the block ignores. -/
def hostRowsIgnored : List HostRow :=
  [⟨"WR_IGNORED_STATUS", 0x40400000000#43, 0x7FF00000000#43⟩,
   ⟨"WR_IGNORED_ACMD41CNT", 0x41C00000000#43, 0x7FF00000000#43⟩,
   ⟨"WR_IGNORED_WRESP", 0x42000000000#43, 0x7FF00000000#43⟩,
   ⟨"WR_IGNORED_PAYLOAD", 0x42400000000#43, 0x7FF00000000#43⟩,
   ⟨"WR_IGNORED_R1STAT", 0x42800000000#43, 0x7FF00000000#43⟩,
   ⟨"WR_IGNORED_RSV_02C", 0x42C00000000#43, 0x7FF00000000#43⟩,
   ⟨"WR_IGNORED_RSV_030_03C", 0x43000000000#43, 0x7F300000000#43⟩,
   ⟨"WR_IGNORED_RESP", 0x44000000000#43, 0x7E300000000#43⟩,
   ⟨"WR_IGNORED_FRAME_060_07C", 0x46000000000#43, 0x7E300000000#43⟩,
   ⟨"WR_IGNORED_RSV_080_0FC", 0x48000000000#43, 0x78300000000#43⟩,
   ⟨"WR_IGNORED_RSV_100_1FC", 0x50000000000#43, 0x70300000000#43⟩]

/-- The 26 HOST_ACCESS rows. -/
def hostRows : List HostRow := hostRowsOperand ++ hostRowsIgnored

/-- Whether a row's pattern matches a HOST_ACCESS value. -/
def HostRow.covers (r : HostRow) (w : BitVec 43) : Bool := w &&& r.mask == r.pattern

/-- The 43-bit HOST_ACCESS value decoded (R91, R113). -/
def decodeHostWord (w : BitVec 43) : Except DecodeError Instr :=
  decodeHost (w.getLsbD 42) (w.extractLsb' 32 10) (w.extractLsb' 0 32)

/-- The `n` bytes of a number, the most significant first. -/
def bytesOfNat (n w : Nat) : List Byte :=
  (List.range n).map fun k => BitVec.ofNat 8 (w >>> (8 * (n - 1 - k)))

/-- The format of an instruction given by its bits alone. A frame's top bits are `01` and a
HOST_ACCESS has 43 bits (R91, R100), so those two never meet. The byte formats do meet; the block tells
them apart by the poll it is in (R172, R253, R258), and here a byte below 0x80 is read as R1, 0xFE as
DATA_START, any other as WRITE_STATUS (DESIGN CHOICE, log entry 15). -/
def formatOfBits (nbits w : Nat) : Format :=
  if nbits ≤ 8 then
    if w < 0x80 then .r1 else if w = 0xFE then .dataStart else .writeStatus
  else if nbits ≤ 40 then .r1Payload
  else if w < 2 ^ 43 then .hostAccess
  else .cmdFrame

/-- The bytes of a format. -/
def Format.length : Format → Nat
  | .hostAccess | .cmdFrame => 6
  | .r1Payload => 5
  | .r1 | .dataStart | .writeStatus => 1

/-- The instruction the decoder reads from an instruction whose bits are `w`, numbered as
spec/opcode_table.json numbers them. -/
def decodeTableWord (nbits w : Nat) : Option Instr :=
  let f := formatOfBits nbits w
  match decode f (bytesOfNat f.length w) with
  | .ok i => some i
  | .error _ => none

end Sys2Proof
end

