-- ==== Sys2Proof/Machine/Responses.lean ====
section
/-! DEFINITION. What the block does with the bytes that steer it: the R1 byte and its payload
(spec/30_encoding.md R105, R106), the data-start token (R107), the write status/busy byte (R108). Each has
its meaning at the points of the pseudocode that receive or send it, and nowhere else (spec/10_state.md
R36). -/

namespace Sys2Proof.Machine

/-- R1: the byte that ends the R1 poll (R172, R171 step 4). -/
def execR1 (e : BitVec 6) (i : BitVec 1) (s : State) : Host.Outcome State Fault Refusal :=
  match s.seq with
  | .run (.poll (.r1 w)) => .next (s.storeR1 w (r1Byte e i))
  | .idle | .run (.start _) | .run (.issueCmd _) | .run (.csOn _) | .run (.xfer _ _)
  | .run (.poll .token) | .run (.poll .wbusy) | .run .issueToken | .run (.csOff _)
  | .run (.failCs _ _) => .refused .wireOutOfPlace

/-- R1_PAYLOAD: a complete response of five bytes. It is in RESP[0..4], and the exchange is closed
(R171 steps 5 and 6, R176). -/
def execR1Payload (e : BitVec 6) (i : BitVec 1) (p : Word) (s : State) :
    Host.Outcome State Fault Refusal :=
  match s.seq with
  | .run (.xfer (.rest w) _) =>
    .next ((s.putResp 0 [r1Byte e i, byteOf p 3, byteOf p 2, byteOf p 1, byteOf p 0]).beginCsOff
      (.cmd w))
  | .idle | .run (.start _) | .run (.issueCmd _) | .run (.csOn _)
  | .run (.xfer .powerUp _) | .run (.xfer (.frame _) _) | .run (.xfer .block _)
  | .run (.xfer .readCrc _) | .run (.xfer .readPad _) | .run (.xfer .token _)
  | .run (.xfer .copy _) | .run (.xfer .dummyCrc _) | .run (.xfer .writePad _)
  | .run (.poll _) | .run .issueToken | .run (.csOff _) | .run (.failCs _ _) =>
    .refused .wireOutOfPlace

/-- DATA_START: received, it ends the token poll and the block follows (R253, R251 step 3); sent, it
opens the data of WRITE_BLOCK as one 1-byte transfer (R257). -/
def execDataStart (s : State) : Host.Outcome State Fault Refusal :=
  match s.seq with
  | .run (.poll .token) => .next (s.beginXfer .block)
  | .run .issueToken => .next (s.beginXfer .token)
  | .idle | .run (.start _) | .run (.issueCmd _) | .run (.csOn _) | .run (.xfer _ _)
  | .run (.poll (.r1 _)) | .run (.poll .wbusy) | .run (.csOff _) | .run (.failCs _ _) =>
    .refused .wireOutOfPlace

/-- WRITE_STATUS: 0x00 is "still busy" and the poll goes on; any other byte ends it, is kept in WRESP,
and the padding follows (R258, R256 steps 5 and 6). -/
def execWriteStatus (b : Byte) (s : State) : Host.Outcome State Fault Refusal :=
  match s.seq with
  | .run (.poll .wbusy) =>
    if b = 0x00#8 then .next (s.pollMiss .wbusy)
    else .next ({ s with wresp := b }.beginXfer .writePad)
  | .idle | .run (.start _) | .run (.issueCmd _) | .run (.csOn _) | .run (.xfer _ _)
  | .run (.poll (.r1 _)) | .run (.poll .token) | .run .issueToken | .run (.csOff _)
  | .run (.failCs _ _) => .refused .wireOutOfPlace

end Sys2Proof.Machine
end

