-- ==== Sys2Proof/Machine/Start.lean ====
section
/-! DEFINITION. CTRL_GO (spec/40_host_ops.md R132, R133): the CTRL writes that start an operation, and
those with a reserved op code, which end at once. -/

namespace Sys2Proof.Machine

/-- The operation an op code names (R92). -/
def opOfCode (op : BitVec 3) : Option Op :=
  if op = 1#3 then some .sendCmd
  else if op = 2#3 then some .init
  else if op = 3#3 then some .readBlock
  else if op = 4#3 then some .writeBlock
  else none

/-- What every accepted CTRL write does first (R132): store OP, clear DONE, WIGN, ERR and DETAIL, latch
the operands (R37), clear `cs_owned`. -/
def State.latch (s : State) (op : BitVec 3) : State :=
  { s with ctrlOp := op, done := false, wign := false, err := .none, detail := .none,
           lOp := op, lIdx := s.cmdIdx, lArg := s.arg, lLen := s.respLen, csOwned := false }

/-- Whether RESPLEN asks for 1 to MAX_RESP_LEN bytes (R96). -/
def legalLen (len : BitVec 4) : Bool := decide (1 ≤ len.toNat ∧ len.toNat ≤ Config.maxRespLen)

/-- `BUSY <- 1; SEQ <- RUN(op, start)` (R132). -/
def State.launch (s : State) (op : Op) : State :=
  { s with busy := true, seq := .run (.start op) }

/-- CTRL_GO with op code `op` (R132, R133). -/
def ctrlGo (op : BitVec 3) (s : State) : Host.Outcome State Fault Refusal :=
  if s.busy then .next s.dropWrite
  else
    match opOfCode op with
    | none => .next ((s.latch op).endOp .badOp)
    | some o =>
      if o = .sendCmd ∧ legalLen s.respLen = false then .next ((s.latch op).endOp .badResplen)
      else .next ((s.latch op).launch o)

/-- SEND_CMD (R178). -/
def execSendCmd (s : State) : Host.Outcome State Fault Refusal := ctrlGo 1#3 s

/-- INIT (R220). -/
def execInit (s : State) : Host.Outcome State Fault Refusal := ctrlGo 2#3 s

/-- READ_BLOCK (R251). -/
def execReadBlock (s : State) : Host.Outcome State Fault Refusal := ctrlGo 3#3 s

/-- WRITE_BLOCK (R256). -/
def execWriteBlock (s : State) : Host.Outcome State Fault Refusal := ctrlGo 4#3 s

/-- OP_RESERVED_0 (R93, R133). -/
def execOpReserved0 (s : State) : Host.Outcome State Fault Refusal := ctrlGo 0#3 s

/-- OP_RESERVED_5 (R93, R133). -/
def execOpReserved5 (s : State) : Host.Outcome State Fault Refusal := ctrlGo 5#3 s

/-- OP_RESERVED_6 (R93, R133). -/
def execOpReserved6 (s : State) : Host.Outcome State Fault Refusal := ctrlGo 6#3 s

/-- OP_RESERVED_7 (R93, R133). -/
def execOpReserved7 (s : State) : Host.Outcome State Fault Refusal := ctrlGo 7#3 s

end Sys2Proof.Machine
end

