-- ==== Sys2Proof/Machine/Dispatch.lean ====
section
/-! DEFINITION. One arm per constructor of Instr. -/

namespace Sys2Proof.Machine

def exec (i : Instr) (s : State) : Host.Outcome State Fault Refusal :=
  match i with
  -- spec/40_host_ops.md R130
  | .hostRead off => Sys2Proof.Machine.execHostRead off s
  -- spec/40_host_ops.md R132, R133
  | .sendCmd => Sys2Proof.Machine.execSendCmd s
  | .init => Sys2Proof.Machine.execInit s
  | .readBlock => Sys2Proof.Machine.execReadBlock s
  | .writeBlock => Sys2Proof.Machine.execWriteBlock s
  | .opReserved0 => Sys2Proof.Machine.execOpReserved0 s
  | .opReserved5 => Sys2Proof.Machine.execOpReserved5 s
  | .opReserved6 => Sys2Proof.Machine.execOpReserved6 s
  | .opReserved7 => Sys2Proof.Machine.execOpReserved7 s
  -- spec/40_host_ops.md R131, spec/41_crc7.md R152, R153
  | .wrCmd idx => Sys2Proof.Machine.execWrCmd idx s
  | .wrArg arg => Sys2Proof.Machine.execWrArg arg s
  | .wrResplen len => Sys2Proof.Machine.execWrResplen len s
  | .crcSet acc => Sys2Proof.Machine.execCrcSet acc s
  | .crcFeed b => Sys2Proof.Machine.execCrcFeed b s
  | .wrData k b0 b1 b2 b3 => Sys2Proof.Machine.execWrData k b0 b1 b2 b3 s
  -- spec/40_host_ops.md R135
  | .wrIgnoredStatus => Sys2Proof.Machine.execWrIgnoredStatus s
  | .wrIgnoredAcmd41cnt => Sys2Proof.Machine.execWrIgnoredAcmd41cnt s
  | .wrIgnoredWresp => Sys2Proof.Machine.execWrIgnoredWresp s
  | .wrIgnoredPayload => Sys2Proof.Machine.execWrIgnoredPayload s
  | .wrIgnoredR1stat => Sys2Proof.Machine.execWrIgnoredR1stat s
  | .wrIgnoredRsv02C => Sys2Proof.Machine.execWrIgnoredRsv02C s
  | .wrIgnoredRsv030To03C sel => Sys2Proof.Machine.execWrIgnoredRsv030To03C sel s
  | .wrIgnoredResp sel => Sys2Proof.Machine.execWrIgnoredResp sel s
  | .wrIgnoredFrame060To07C sel => Sys2Proof.Machine.execWrIgnoredFrame060To07C sel s
  | .wrIgnoredRsv080To0FC sel => Sys2Proof.Machine.execWrIgnoredRsv080To0FC sel s
  | .wrIgnoredRsv100To1FC sel => Sys2Proof.Machine.execWrIgnoredRsv100To1FC sel s
  -- spec/30_encoding.md R100, R104
  | .cmdn idx arg crc => Sys2Proof.Machine.execCmdn idx arg crc s
  | .cmd0 => Sys2Proof.Machine.execCmd0 s
  | .cmd8 => Sys2Proof.Machine.execCmd8 s
  | .cmd55 => Sys2Proof.Machine.execCmd55 s
  | .acmd41 => Sys2Proof.Machine.execAcmd41 s
  | .cmd17 arg crc => Sys2Proof.Machine.execCmd17 arg crc s
  | .cmd24 arg crc => Sys2Proof.Machine.execCmd24 arg crc s
  -- spec/30_encoding.md R105 to R108
  | .r1 e b => Sys2Proof.Machine.execR1 e b s
  | .r1Payload e b p => Sys2Proof.Machine.execR1Payload e b p s
  | .dataStart => Sys2Proof.Machine.execDataStart s
  | .writeStatus b => Sys2Proof.Machine.execWriteStatus b s

end Sys2Proof.Machine
end

