-- ==== Sys2Proof/Machine/Sequencer.lean ====
section
/-! DEFINITION. The sequencer between the wire rows: how each operation starts, and where it goes when a
transport request is answered (spec/44_init_fsm.md R220, spec/45_block_io.md R251 and R256,
spec/42_command_framer.md R171, R178). -/

namespace Sys2Proof.Machine

/-- The first step of an operation (R178, R220, R251, R256). -/
def State.startOp (s : State) (op : Op) : State :=
  match op with
  | .sendCmd => s.enterCmd .user
  | .init => { s with acmd41cnt := 0#32, initst := .powerup }.beginXfer .powerUp
  | .readBlock => s.enterCmd .cmd17
  | .writeBlock => { s with wcopy := s.data, wresp := 0x00#8 }.enterCmd .cmd24

/-- After a CS_ASSERT answered `ok`: the frame of a command exchange (R171 step 3), the token poll of a
read with its own T0 (R253), the token of a write (R257). -/
def State.afterCsOn (s : State) (b : Exchange) : State :=
  match b with
  | .cmd w => s.beginXfer (.frame w)
  | .read => { s with t0 := s.now }.beginPoll .token
  | .write => s.goto .issueToken

/-- After the last chunk of a transfer answered `ok` (R171, R220, R251, R256). -/
def State.afterXfer (s : State) (x : Xfer) : State :=
  match x with
  | .powerUp => { s with initst := .reset }.enterCmd .cmd0
  | .frame w => s.beginPoll (.r1 w)
  | .rest w => s.beginCsOff (.cmd w)
  | .block => s.beginXfer .readCrc
  | .readCrc => s.beginXfer .readPad
  | .readPad => s.beginCsOff .read
  | .token => s.beginXfer .copy
  | .copy => s.beginXfer .dummyCrc
  | .dummyCrc => { s with t0 := s.now }.beginPoll .wbusy
  | .writePad => s.beginCsOff .write

/-- After SendCommand has returned (R178, R222 to R228, R251 step 1, R256 step 1). -/
def State.afterCmd (s : State) (w : Cmd) : State :=
  match w with
  | .user => s.endOp .none
  | .cmd0 =>
    if s.resp[0] = Config.idleCode then { s with initst := .ifcheck }.enterCmd .cmd8
    else s.raise .cmd0NotIdle
  | .cmd8 =>
    if s.resp[0] ≠ Config.idleCode then s.raise .cmd8NotIdle
    else if s.resp[4] ≠ Config.checkPattern then s.raise .cmd8EchoMismatch
    else { s with initst := .voltneg, t0Init := s.now }.enterCmd .cmd55
  | .cmd55 =>
    if s.resp[0] = Config.idleCode then s.enterCmd .acmd41 else s.raise .cmd55NotIdle
  | .acmd41 =>
    if s.resp[0] = Config.readyCode then { s with initst := .ready }.endOp .none
    else if s.late s.t0Init s.params.tInit then s.raise .initLoopTimeout
    else s.enterCmd .cmd55
  | .cmd17 =>
    if s.resp[0] = Config.readyCode then s.beginCsOn .read else s.raise .cmd17NotSuccess
  | .cmd24 =>
    if s.resp[0] = Config.readyCode then s.beginCsOn .write else s.raise .cmd24NotSuccess

/-- After the CS_DEASSERT that ends an exchange is answered `ok`. -/
def State.afterCsOff (s : State) (b : Exchange) : State :=
  match b with
  | .cmd w => s.afterCmd w
  | .read | .write => s.endOp .none

/-- Where the sequencer goes when the outstanding request of its point is answered, unless the answer
is one of the wire rows (Machine/Fetch.lean). A byte of a poll that comes this way does not match
(R204). -/
def State.onAnswer (s : State) (p : Point) (a : Answer) : State :=
  match p, a with
  | .csOn b, .ok _ => (s.csAssertAnswered true).afterCsOn b
  | .csOn _, .fail => (s.csAssertAnswered false).raise .csAssertFail
  | .csOff b, .ok _ => (s.csDeassertAnswered true).afterCsOff b
  | .csOff _, .fail => (s.csDeassertAnswered false).raise .csDeassertFail
  | .failCs _ d, .ok _ => (s.csDeassertAnswered true).endOp d
  | .failCs _ d, .fail => (s.csDeassertAnswered false).endOp d
  | .xfer x c, .ok bs =>
    let s := s.land x c bs
    if s.moreChunks x c then s.beginChunk x (x.outgoing s) (c + 1) else s.afterXfer x
  | .xfer x c, .fail => (s.lose x c).raise .xferFail
  | .poll k, .ok _ => s.pollMiss k
  | .poll _, .fail => s.raise .xferFail
  | .start _, _ | .issueCmd _, _ | .issueToken, _ => s

end Sys2Proof.Machine
end

