-- ==== Sys2Proof/Machine/Fetch.lean ====
section
/-! DEFINITION. Which agent moves next and which instruction that move fetches (spec/00_scope.md R5). The
host's accesses, the transport's answers, new time values and resets come from the inbox in order; at a
point with no request outstanding the sequencer moves by itself, before the next answer. A host access is
one instruction; a frame is fetched from FRAME; a byte or response the block waits for is fetched from the
transport's answer. -/

namespace Sys2Proof.Machine

/-- A move of the machine: run an instruction in a state, or end the step at once. -/
inductive Move where
  | execute (i : Instr) (s : State)
  | done (o : Host.Outcome State Fault Refusal)

/-- The instruction of a host access (R113): refused if it is not 32 bits wide or its offset is no
multiple of 4 (R63), or if it lies outside the window (R65). -/
def fetchHost (p : Params) (a : HostAccess) : Except Refusal Instr :=
  if a.width ≠ 32 then .error .badWidth
  else if a.addr < p.regBase ∨ p.regBase + 0x400 ≤ a.addr then .error .outsideWindow
  else
    match decodeHost a.write (BitVec.ofNat 10 (a.addr - p.regBase)) a.data with
    | .ok i => .ok i
    | .error _ => .error .misaligned

/-- Whether an answer fits its request: `len(r) = len(s)` for BULK, no bytes for a chip-select request
(R40). -/
def Request.fits (r : Request) (a : Answer) : Bool :=
  match r, a with
  | _, .fail => true
  | .bulk s, .ok bs => decide (bs.length = s.length)
  | .csAssert, .ok bs => bs.isEmpty
  | .csDeassert, .ok bs => bs.isEmpty

/-- The wire row an answer completes at a point, if it does: the byte a poll waits for, read in the
poll's own format, or the last byte of a five-byte response (R172, R253, R258, R106). -/
def fetchWire (s : State) (p : Point) (a : Answer) : Option Instr :=
  match p, a with
  | .poll (.r1 _), .ok bs => (decode .r1 bs).toOption
  | .poll .token, .ok bs => (decode .dataStart bs).toOption
  | .poll .wbusy, .ok bs => (decode .writeStatus bs).toOption
  | .xfer (.rest w) c, .ok bs =>
    if w.len s = 5 ∧ s.moreChunks (.rest w) c = false then
      (decode .r1Payload (s.resp.toList.take (1 + c * s.params.chunkSize) ++ bs)).toOption
    else none
  | .start _, _ | .issueCmd _, _ | .csOn _, _ | .issueToken, _ | .csOff _, _ | .failCs _ _, _
  | .poll _, .fail | .xfer _ _, .fail
  | .xfer .powerUp _, .ok _ | .xfer (.frame _) _, .ok _ | .xfer .block _, .ok _
  | .xfer .readCrc _, .ok _ | .xfer .readPad _, .ok _ | .xfer .token _, .ok _
  | .xfer .copy _, .ok _ | .xfer .dummyCrc _, .ok _ | .xfer .writePad _, .ok _ => none

/-- The sequencer's move at a point where no request is outstanding; at any other point it has
none. -/
def ownMove (s : State) : Option Move :=
  match s.seq with
  | .run (.start op) => some (.done (.next (s.startOp op)))
  | .run (.issueCmd _) =>
    match decode .cmdFrame s.frame.toList with
    | .ok i => some (.execute i s)
    | .error _ => some (.done (.refused .badFrame))
  | .run .issueToken => some (.execute .dataStart s)
  | .idle | .run (.csOn _) | .run (.xfer _ _) | .run (.poll _) | .run (.csOff _)
  | .run (.failCs _ _) => none

/-- A host access. -/
def hostMove (s : State) (a : HostAccess) : Move :=
  match fetchHost s.params a with
  | .ok i => .execute i s
  | .error r => .done (.refused r)

/-- A transport answer, where the sequencer has no move of its own. The request outstanding takes it if it
is an answer that request can have (R40). Any other is no answer to it and is dropped, as one is that finds no
request outstanding (DESIGN CHOICE, log entry 11). -/
def answerMove (s : State) (a : Answer) : Move :=
  match s.req, s.seq with
  | some r, .run p =>
    if r.fits a then
      match fetchWire s p a with
      | some i => .execute i { s with req := none }
      | none => .done (.next ({ s with req := none }.onAnswer p a))
    else .done (.next s)
  | _, _ => .done (.next s)

/-- Reset (R310, R312): every piece of state at R46's value; the operation and any outstanding request
are abandoned without a request. The inputs are not the block's to reset, and DATA is drawn anew. -/
def State.applyReset (s : State) : State :=
  { State.resetWith s.params with
    now := s.now, wraps := s.wraps, inbox := s.inbox, cycle := s.cycle, rdata := s.rdata,
    draws := s.draws, dataEpoch := s.dataEpoch + 1 }

/-- The tick the time source has reached, wraps counted. -/
def State.tick (s : State) : Nat := s.wraps * 2 ^ s.params.timeWidth + s.now

/-- The time source reaches tick `t`: the block sees it below 2^TIME_WIDTH (R47). -/
def State.setTime (s : State) (t : Nat) : State :=
  { s with now := t % 2 ^ s.params.timeWidth, wraps := t / 2 ^ s.params.timeWidth }

/-- A new time. While an operation runs it may not go down, and it is refused if it does (R47, U15); a
wrap of `now` is no such case (R292). -/
def timeMove (s : State) (t : Nat) : Move :=
  if s.busy = true ∧ t < s.tick then .done (.refused .timeDecreased) else .done (.next (s.setTime t))

/-- Another agent uses the transport. While an operation runs the sequencer owns it alone, and the run
is refused (R76, U15); between operations the sharing is the platform's concern and the block sees
nothing of it. -/
def otherAgentMove (s : State) : Move :=
  if s.busy then .done (.refused .transportShared) else .done (.next s)

/-- The next move of the machine. The answer to a request that a reset abandoned is dropped whenever it
comes (R312, log entry 25). Any other answer waits while the sequencer has a move of its own, and so comes to
the request that move issues: it is never an abandoned one's (DESIGN CHOICE, log entry 25). With the inbox
used up, the inputs of `cycle` come again; with none there, an idle block goes on waiting (R310), and one that waits for an answer is stuck (R293). -/
def nextMove (s : State) : Move :=
  match s.inbox with
  | .host a :: rest => hostMove { s with inbox := rest } a
  | .reset :: rest => .done (.next ({ s with inbox := rest }.applyReset))
  | .time t :: rest => timeMove { s with inbox := rest } t
  | .otherAgent :: rest => otherAgentMove { s with inbox := rest }
  | .staleAnswer _ :: rest => .done (.next { s with inbox := rest })
  | .answer a :: rest =>
    match ownMove s with
    | some m => m
    | none => answerMove { s with inbox := rest } a
  | [] =>
    match ownMove s with
    | some m => m
    | none =>
      match s.cycle with
      | e :: es => .done (.next { s with inbox := e :: es })
      | [] => if s.seq = .idle then .done (.next s) else .done (.fault .stuck)

end Sys2Proof.Machine
end

