-- ==== Sys2Proof/Machine/Step.lean ====
section
/-! DEFINITION. One step of the machine, and the placing of an instruction where the next step fetches
it. -/

namespace Sys2Proof.Machine

/-- One step: the next move, and where that move fetches an instruction, its meaning. -/
def step (s : State) : Host.Outcome State Fault Refusal :=
  match nextMove s with
  | .execute i t => exec i t
  | .done o => o

/-- The host access whose 43-bit value is `w` (R91), on the bus of a block with parameters `p`. -/
def accessOfBits (p : Params) (w : Nat) : HostAccess where
  width := 32
  write := w.testBit 42
  addr := p.regBase + (w >>> 32) % 2 ^ 10
  data := BitVec.ofNat 32 w

/-- Whether an input lands before the sequencer's own move: every one but an answer. -/
def Event.landsFirst : Event → Bool
  | .host _ | .time _ | .reset | .otherAgent | .staleAnswer _ => true
  | .answer _ => false

/-- The sequencer waiting for the answer to a BULK of `n` FILL bytes at a point, that answer next. -/
def State.awaiting (s : State) (p : Point) (n : Nat) (answer : List Byte) : State :=
  { s with busy := true, seq := .run p, csOwned := true,
           req := some (.bulk (List.replicate n Config.fill)),
           inbox := .answer (.ok answer) :: s.inbox }

/-- The state with an instruction placed where the next step fetches it: a host access at the head of
the inbox; a frame in FRAME with SEND_CMD about to send it; a byte or response as the next answer of
the transport, at the point that waits for it (log entry 15). -/
def State.withFetchWord (s : State) (nbits w : Nat) : State :=
  let f := formatOfBits nbits w
  let bs := bytesOfNat f.length w
  match f with
  | .hostAccess => { s with inbox := .host (accessOfBits s.params w) :: s.inbox }
  | .cmdFrame =>
    { s with busy := true, seq := .run (.issueCmd .user), csOwned := false, req := none,
             frame := Vector.ofFn fun k : Fin 6 => bs.getD k.val 0#8,
             inbox := s.inbox.dropWhile Event.landsFirst }
  | .r1 => s.awaiting (.poll (.r1 .user)) 1 bs
  | .r1Payload =>
    let c := 3 / s.params.chunkSize
    let got := c * s.params.chunkSize
    { s with resp := putAt s.resp 0 (bs.take (1 + got)), lLen := 5#4 }.awaiting
      (.xfer (.rest .user) c) (4 - got) (bs.drop (1 + got))
  | .dataStart => s.awaiting (.poll .token) 1 bs
  | .writeStatus => s.awaiting (.poll .wbusy) 1 bs

end Sys2Proof.Machine
end

