-- ==== Sys2Proof/Safety.lean ====
section
/-! DEFINITION. What counts as a safe state: the invariant the claims use, in the terms of the spec's rules,
and the chip-select bracket seen on the transport (spec/45_block_io.md R260). -/

namespace Sys2Proof.Machine

/-- Whether a chip-select bracket is open after a byte stream, newest request first: `none` if two
CS_ASSERTs or two CS_DEASSERTs came in a row, or a CS_DEASSERT came first (R175, R260). -/
def csBracket : List Request → Option Bool
  | [] => some false
  | .bulk _ :: w => csBracket w
  | .csAssert :: w => if csBracket w = some false then some true else none
  | .csDeassert :: w => if csBracket w = some true then some false else none

/-- Whether `cs_owned` holds at a point: from the CS_ASSERT request to the matching CS_DEASSERT request
(R38). PowerUpClock is outside any bracket (R221). -/
def Seq.owns : Seq → Bool
  | .idle => false
  | .run (.start _) | .run (.issueCmd _) | .run (.csOff _) | .run (.failCs _ _) => false
  | .run (.xfer .powerUp _) => false
  | .run (.csOn _) | .run (.xfer _ _) | .run (.poll _) | .run .issueToken => true

/-- The request a point waits for the answer of (R40): none where the block is idle or moves by
itself. -/
def Seq.waitsFor (s : State) : Seq → Option Request
  | .idle => none
  | .run (.start _) | .run (.issueCmd _) | .run .issueToken => none
  | .run (.csOn _) => some .csAssert
  | .run (.csOff _) | .run (.failCs _ _) => some .csDeassert
  | .run (.xfer x c) => some (.bulk (chunk s.params.chunkSize (x.outgoing s) c))
  | .run (.poll _) => some (.bulk [Config.fill])

/-- The command exchange a point belongs to, if it does (R171). -/
def Point.cmd? : Point → Option Cmd
  | .issueCmd w => some w
  | .csOn (.cmd w) | .csOff (.cmd w) => some w
  | .xfer (.frame w) _ | .xfer (.rest w) _ => some w
  | .poll (.r1 w) => some w
  | .start _ | .csOn .read | .csOn .write | .csOff .read | .csOff .write
  | .xfer .powerUp _ | .xfer .block _ | .xfer .readCrc _ | .xfer .readPad _ | .xfer .token _
  | .xfer .copy _ | .xfer .dummyCrc _ | .xfer .writePad _
  | .poll .token | .poll .wbusy | .issueToken | .failCs _ _ => none

/-- The INIT state whose command a command exchange is (R229). -/
def Cmd.initState : Cmd → Option InitState
  | .cmd0 => some .reset
  | .cmd8 => some .ifcheck
  | .cmd55 | .acmd41 => some .voltneg
  | .user | .cmd17 | .cmd24 => none

/-- The error details a running operation can end with (R282), besides none. -/
def Op.causes : Op → List Detail
  | .sendCmd => [.csAssertFail, .xferFail, .r1PollTimeout, .csDeassertFail]
  | .init => [.csAssertFail, .xferFail, .r1PollTimeout, .csDeassertFail, .cmd0NotIdle, .cmd8NotIdle,
      .cmd8EchoMismatch, .cmd55NotIdle, .initLoopTimeout]
  | .readBlock => [.csAssertFail, .xferFail, .r1PollTimeout, .csDeassertFail, .cmd17NotSuccess,
      .tokenPollTimeout]
  | .writeBlock => [.csAssertFail, .xferFail, .r1PollTimeout, .csDeassertFail, .cmd24NotSuccess,
      .wbusyPollTimeout]

/-! ## Runs -/

/-- `k` steps, stopping at the first fault or refusal. -/
def steps : Nat → State → Host.Outcome State Fault Refusal
  | 0, s => .next s
  | k + 1, s =>
    match step s with
    | .next t => steps k t
    | .fault f => .fault f
    | .refused r => .refused r

/-- A 32-bit host write at a byte offset of the window. -/
def hostWriteAt (p : Params) (off : Nat) (data : Word) : Event :=
  .host { width := 32, write := true, addr := p.regBase + off, data := data }

/-- The transport answers `ok`, with these received bytes in turn. -/
def answersOf (rs : List (List Byte)) : List Event := rs.map fun r => .answer (.ok r)

/-- The answers to a command exchange whose R1 byte comes after the poll bytes `before` (R171): the
CS_ASSERT, the frame (`back` is read back), the poll bytes, R1, the payload, the CS_DEASSERT. -/
def exchangeAnswers (size : Nat) (back before : List Byte) (r1 : Byte) (payload : List Byte) :
    List Event :=
  answersOf ([[]] ++ chunks size back ++ before.map (fun b => [b]) ++ [[r1]] ++
    chunks size payload ++ [[]])

/-- The requests of that exchange, in their order (R109). -/
def exchangeRequests (size : Nat) (frame : Vector Byte 6) (polls payload : Nat) : List Request :=
  [.csAssert] ++ (chunks size frame.toList).map .bulk ++
    List.replicate polls (.bulk [Config.fill]) ++
    (chunks size (List.replicate payload Config.fill)).map .bulk ++ [.csDeassert]

/-- From `s` to `u`, the received bytes `got` have landed where the bytes of the transfer `x` go, its byte
number `first` first: in RESP after R1 for a response remainder (R171), in DATA for a read block (R252),
nowhere else; the rest of RESP and DATA is as it was. -/
def landedFrom (s u : State) (x : Xfer) (first : Nat) (got : List Byte) : Prop :=
  (∀ k : Fin 8, u.resp[k] =
    match x with
    | .rest _ =>
      if 1 + first ≤ k.val ∧ k.val < 1 + first + got.length then got.getD (k.val - 1 - first) 0#8
      else s.resp[k]
    | _ => s.resp[k]) ∧
  ∀ j : Nat, u.dataByte j =
    match x with
    | .block =>
      if first ≤ j ∧ j < first + got.length then got.getD (j - first) 0#8 else s.dataByte j
    | _ => s.dataByte j

/-- No input that lands before the sequencer's own move is next (R5). -/
def State.undisturbed (s : State) : Bool :=
  match s.inbox with
  | e :: _ => !e.landsFirst
  | [] => true

/-- The invariant of the block. -/
structure State.Inv (s : State) : Prop where
  /-- The parameters are legal (R6). -/
  params : s.params.wf
  /-- DATA and WCOPY are in canonical form, inside the DATA window. -/
  data : s.data.wf = true
  wcopy : s.wcopy.wf = true
  /-- "`SEQ = IDLE` exactly when STATUS.BUSY = 0" (R36). -/
  busy : s.busy = true ↔ s.seq ≠ .idle
  /-- While an operation runs, DONE, ERR and DETAIL are clear (R69, R132). -/
  running : s.busy = true → s.done = false ∧ s.err = .none ∧ s.detail = .none
  /-- "Each code goes with exactly one ERR kind" (R281). -/
  errDetail : s.err = s.detail.kind
  /-- `cs_owned` is true inside a bracket and nowhere else (R38). -/
  owned : s.csOwned = s.seq.owns
  /-- The transport has seen CS requests alternate, and the bracket is open exactly while the block
  owns chip-select (R260). -/
  bracket : csBracket s.wire = some s.csOwned
  /-- Exactly the request of the sequencer's point is outstanding (R40). -/
  request : s.req = s.seq.waitsFor s
  /-- A chunk that is outstanding is one of its transfer's (R200). -/
  inRange : ∀ x c, s.seq = .run (.xfer x c) → c * s.params.chunkSize < x.size s
  /-- No BULK is empty or longer than CHUNK_SIZE (R206). -/
  bulks : ∀ str, .bulk str ∈ s.wire → 1 ≤ str.length ∧ str.length ≤ s.params.chunkSize
  /-- The running operation is the one latched (R37). -/
  latched : ∀ p, s.seq = .run p → opOfCode s.lOp = some p.op
  /-- A running SEND_CMD was started with a legal response length (R96). -/
  length : ∀ p, s.seq = .run p → p.op = .sendCmd → legalLen s.lLen = true
  /-- FRAME holds the frame of the command being exchanged, "as built" (R34, R170). -/
  frame : ∀ p w, s.seq = .run p → p.cmd? = some w → s.frame = buildFrame (w.idx s) (w.arg s)
  /-- The failure path carries an error its operation can raise (R282). -/
  cause : ∀ op d, s.seq = .run (.failCs op d) → d ∈ op.causes
  /-- INITST names the INIT state whose command is being exchanged (R43, R229). -/
  initst : ∀ p w i, s.seq = .run p → p.cmd? = some w → w.initState = some i → s.initst = i
  /-- The time input and the anchors are TIME_WIDTH bits wide (R47). -/
  time : s.now < 2 ^ s.params.timeWidth ∧ s.t0 < 2 ^ s.params.timeWidth ∧
    s.t0Init < 2 ^ s.params.timeWidth

end Sys2Proof.Machine
end

