-- ==== Sys2Proof/Certificates/Slice0/Obligations.lean ====
section
/-! DEFINITION. The statements for the provers. Each docstring says which rule of spec/ it formalises. A next
state is written as an update of the state before, so every field an update does not name is unchanged: that
is the statement's frame, memory included. -/

open Sys2Proof Sys2Proof.Machine

/-! ## Reset -/

/-- R46: the value of each piece of state after reset, for any parameters; a byte of DATA is the draw of
its reset (R48). T0, T0_INIT and WCOPY, which R46 leaves undefined, are not named. -/
def Obligations.ResetGivesTheTableOfR46 : Prop :=
  State.reset = State.resetWith Config.default ∧
  ∀ p : Params,
    let s := State.resetWith p
    s.params = p ∧ s.ctrlOp = 0#3 ∧ s.busy = false ∧ s.done = false ∧ s.wign = false ∧
    s.csst = .deasserted ∧ s.err = .none ∧ s.detail = .none ∧ s.initst = .none ∧ s.cmdIdx = 0#6 ∧
    s.arg = 0x00000000#32 ∧ s.respLen = 1#4 ∧ s.crcAcc = 0x00#7 ∧ s.acmd41cnt = 0#32 ∧
    s.wresp = 0x00#8 ∧ (∀ i : Fin 8, s.resp[i] = 0xFF#8) ∧ s.payloadWord = 0xFFFFFFFF#32 ∧
    s.r1statWord = 0x0000FEFF#32 ∧ (∀ i : Fin 6, s.frame[i] = 0x00#8) ∧
    (∀ i, s.dataByte i = Config.dataDraw s.dataEpoch i) ∧
    s.seq = .idle ∧ s.lOp = 0#3 ∧ s.lIdx = 0#6 ∧ s.lArg = 0#32 ∧ s.lLen = 1#4 ∧ s.csOwned = false

/-- R310, R312: a reset in the middle of anything puts every piece of state at its reset value and issues
nothing; the answer to a request it abandoned is dropped, at whatever point of whatever operation it comes; an
idle block with nothing to come then waits. That the time input, the inputs to come and the model's own counters
are kept is log entry 5; that an input says whether it answers an abandoned request is log entry 25; that an
answer no outstanding request can have is dropped is log entry 11, the model's choice all three. -/
def Obligations.ResetAbandonsEverything : Prop :=
  (∀ (s : State) (rest : List Event), s.inbox = .reset :: rest →
    step s = .next { State.resetWith s.params with
      now := s.now, wraps := s.wraps, inbox := rest, cycle := s.cycle, rdata := s.rdata,
      draws := s.draws, dataEpoch := s.dataEpoch + 1 }) ∧
  (∀ (s : State) (a : Answer) (rest : List Event), s.inbox = .reset :: .answer a :: rest →
    ∃ t, step s = .next t ∧ t.req = none ∧ t.wire = [] ∧
      step t = .next { t with inbox := rest }) ∧
  (∀ (s : State) (a : Answer) (rest : List Event), s.inbox = .staleAnswer a :: rest →
    step s = .next { s with inbox := rest }) ∧
  (∀ (s : State) (r : Request) (a : Answer) (rest : List Event), s.Inv → s.req = some r →
    r.fits a = false → s.inbox = .answer a :: rest → step s = .next { s with inbox := rest }) ∧
  (∀ s : State, s.seq = .idle → s.inbox = [] → s.cycle = [] → step s = .next s)

/-- The block's invariant holds at reset. -/
def Obligations.ResetSatisfiesTheInvariant : Prop :=
  State.reset.Inv ∧ ∀ p : Params, p.wf → (State.resetWith p).Inv

/-! ## Host reads -/

/-- R66: with BUSY = 0 a read returns the register at its offset, built from its fields, with reserved bits
0, and changes nothing; reading again returns the same. The fields are those of R22 to R35; the offsets
those of R61. -/
def Obligations.IdleReadReturnsTheRegister : Prop :=
  ∀ s : State, s.busy = false →
    let returns (off : BitVec 10) (v : Word) : Prop :=
      exec (.hostRead off) s = .next { s with rdata := v }
    returns 0x000#10 (0#29 ++ s.ctrlOp) ∧
    returns 0x004#10 (0#13 ++ s.initst.code ++ s.detail.code ++ s.err.code ++ 0#3 ++ s.csst.code ++
      BitVec.ofBool s.wign ++ BitVec.ofBool s.done ++ 0#1) ∧
    returns 0x008#10 (0#26 ++ s.cmdIdx) ∧
    returns 0x00C#10 s.arg ∧
    returns 0x010#10 (0#28 ++ s.respLen) ∧
    returns 0x014#10 (0#25 ++ s.crcAcc) ∧
    returns 0x018#10 0#32 ∧
    returns 0x01C#10 s.acmd41cnt ∧
    returns 0x020#10 (0#24 ++ s.wresp) ∧
    returns 0x024#10 (s.resp[1] ++ s.resp[2] ++ s.resp[3] ++ s.resp[4]) ∧
    returns 0x028#10 (0#16 ++ (s.resp[0]).extractLsb' 1 6 ++ (s.resp[0]).extractLsb' 0 1 ++
      (1#1 - (s.resp[0]).extractLsb' 7 1) ++ s.resp[0]) ∧
    (∀ i : Fin 8, returns (0x040#10 + 4#10 * BitVec.ofNat 10 i.val) (0#24 ++ s.resp[i])) ∧
    (∀ i : Fin 6, returns (0x060#10 + 4#10 * BitVec.ofNat 10 i.val) (0#24 ++ s.frame[i])) ∧
    (∀ k : Nat, k < 128 → returns (0x200#10 + 4#10 * BitVec.ofNat 10 k)
      (s.dataByte (4 * k + 3) ++ s.dataByte (4 * k + 2) ++ s.dataByte (4 * k + 1) ++
        s.dataByte (4 * k))) ∧
    (∀ off : BitVec 10, off.toNat % 4 = 0 →
      (0x02C ≤ off.toNat ∧ off.toNat < 0x040) ∨ (0x078 ≤ off.toNat ∧ off.toNat < 0x200) →
      returns off 0#32) ∧
    (∀ (off : BitVec 10) (t : State), exec (.hostRead off) s = .next t →
      exec (.hostRead off) t = .next t)

/-- R69: with BUSY = 1 a read of STATUS shows BUSY 1, DONE 0, ERR 0 and DETAIL 0 and the exact WIGN bit,
and a read of any other register returns some value; nothing but the read value and the count of draws
changes. CSST and INITST are left out of the STATUS clause: they may be any value. R64: a reserved offset, where
no register stands, reads 0 as it does with BUSY = 0, and takes no draw; that R64 holds there against the
pseudocode of R130 is the model's reading (log entry 24). -/
def Obligations.BusyReadFixesOnlyStatus : Prop :=
  ∀ (s : State) (off : BitVec 10), s.busy = true → off.toNat % 4 = 0 →
    let reserved : Prop :=
      (0x02C ≤ off.toNat ∧ off.toNat < 0x040) ∨ (0x078 ≤ off.toNat ∧ off.toNat < 0x200)
    (¬ reserved → ∃ v : Word,
      exec (.hostRead off) s = .next { s with rdata := v, draws := s.draws + 1 } ∧
      (off = 0x004#10 →
        v.getLsbD 0 = true ∧ v.getLsbD 1 = false ∧ v.getLsbD 2 = s.wign ∧
        v.extractLsb' 5 3 = 0#3 ∧ v.extractLsb' 8 4 = 0#4 ∧ v.extractLsb' 12 4 = 0#4 ∧
        v.extractLsb' 19 13 = 0#13)) ∧
    (reserved → exec (.hostRead off) s = .next { s with rdata := 0#32 })

/-- R280, R281, R23, R43: the ERR and DETAIL codes, the one ERR kind of each DETAIL code, and the codes of CSST
and INITST. -/
def Obligations.ErrorCodesOfTheTables : Prop :=
  [CsState.deasserted, .asserted, .unknown].map CsState.code = [0#2, 1#2, 2#2] ∧
  [InitState.none, .powerup, .reset, .ifcheck, .voltneg, .ready].map InitState.code =
    [0#3, 1#3, 2#3, 3#3, 4#3, 5#3] ∧
  [ErrKind.none, .transport, .timeout, .protocol, .illegal].map ErrKind.code =
    [0#4, 1#4, 2#4, 3#4, 4#4] ∧
  [(Detail.none, ErrKind.none, 0#4), (.cmd0NotIdle, .protocol, 1#4), (.cmd8NotIdle, .protocol, 2#4),
   (.cmd8EchoMismatch, .protocol, 3#4), (.cmd55NotIdle, .protocol, 4#4),
   (.cmd17NotSuccess, .protocol, 5#4), (.cmd24NotSuccess, .protocol, 6#4),
   (.r1PollTimeout, .timeout, 7#4), (.initLoopTimeout, .timeout, 8#4),
   (.tokenPollTimeout, .timeout, 9#4), (.wbusyPollTimeout, .timeout, 10#4),
   (.xferFail, .transport, 11#4), (.csAssertFail, .transport, 12#4),
   (.csDeassertFail, .transport, 13#4), (.badOp, .illegal, 14#4),
   (.badResplen, .illegal, 15#4)].all (fun (d, k, c) => d.kind == k && d.code == c) = true ∧
  ∀ d : Detail, d.kind = .none ↔ d = .none

/-! ## Host writes -/

/-- R131: HOST_WRITE stores the field of CMD, ARG or RESPLEN, or the four bytes of a DATA word, and nothing
else; bits outside the field are dropped; with BUSY = 1 it changes nothing but WIGN. -/
def Obligations.OperandWriteStoresItsField : Prop :=
  (∀ (s : State) (v : Word), s.busy = false →
    exec (.wrCmd (v.extractLsb' 0 6)) s = .next { s with cmdIdx := v.extractLsb' 0 6 } ∧
    exec (.wrArg v) s = .next { s with arg := v } ∧
    exec (.wrResplen (v.extractLsb' 0 4)) s = .next { s with respLen := v.extractLsb' 0 4 }) ∧
  (∀ (s : State) (k : BitVec 7) (b0 b1 b2 b3 : Byte), s.busy = false →
    ∃ m : Memory, exec (.wrData k b0 b1 b2 b3) s = .next { s with data := m } ∧
      ∀ j : Nat, ({ s with data := m } : State).dataByte j =
        if j = 4 * k.toNat then b0 else if j = 4 * k.toNat + 1 then b1
        else if j = 4 * k.toNat + 2 then b2 else if j = 4 * k.toNat + 3 then b3
        else s.dataByte j) ∧
  (∀ (s : State) (v : Word) (k : BitVec 7) (b0 b1 b2 b3 : Byte), s.busy = true →
    exec (.wrCmd (v.extractLsb' 0 6)) s = .next { s with wign := true } ∧
    exec (.wrArg v) s = .next { s with wign := true } ∧
    exec (.wrResplen (v.extractLsb' 0 4)) s = .next { s with wign := true } ∧
    exec (.wrData k b0 b1 b2 b3) s = .next { s with wign := true }) ∧
  (∀ (v : Word) (k : BitVec 7),
    decodeHost true 0x008#10 v = .ok (.wrCmd (v.extractLsb' 0 6)) ∧
    decodeHost true 0x00C#10 v = .ok (.wrArg v) ∧
    decodeHost true 0x010#10 v = .ok (.wrResplen (v.extractLsb' 0 4)) ∧
    decodeHost true (1#1 ++ k ++ 0#2) v = .ok (.wrData k (v.extractLsb' 0 8) (v.extractLsb' 8 8)
      (v.extractLsb' 16 8) (v.extractLsb' 24 8)))

/-- R70: a DATA word is little-endian. Writing word `k` puts bits 7:0 in DATA[4k] and bits 31:24 in
DATA[4k+3]; reading it back gives the word; every other word reads as before. -/
def Obligations.DataWordsAreLittleEndian : Prop :=
  ∀ (s : State) (k : BitVec 7) (v : Word), s.busy = false →
    ∃ t : State,
      exec (.wrData k (v.extractLsb' 0 8) (v.extractLsb' 8 8) (v.extractLsb' 16 8)
        (v.extractLsb' 24 8)) s = .next t ∧
      t.dataByte (4 * k.toNat) = v.extractLsb' 0 8 ∧
      t.dataByte (4 * k.toNat + 1) = v.extractLsb' 8 8 ∧
      t.dataByte (4 * k.toNat + 2) = v.extractLsb' 16 8 ∧
      t.dataByte (4 * k.toNat + 3) = v.extractLsb' 24 8 ∧
      exec (.hostRead (1#1 ++ k ++ 0#2)) t = .next { t with rdata := v } ∧
      ∀ k' : BitVec 7, k' ≠ k → t.dataWord k'.toNat = s.dataWord k'.toNat

/-- R152, R153: CRC_SET loads `CRC.ACC` with bits 6:0 of the word, CRC_FEED advances it by the byte in bits
7:0; with BUSY = 1 both change nothing but WIGN. -/
def Obligations.CrcRegisterWrites : Prop :=
  (∀ (s : State) (v : Word), s.busy = false →
    exec (.crcSet (v.extractLsb' 0 7)) s = .next { s with crcAcc := v.extractLsb' 0 7 } ∧
    exec (.crcFeed (v.extractLsb' 0 8)) s =
      .next { s with crcAcc := crc7Update (v.extractLsb' 0 8) s.crcAcc }) ∧
  (∀ (s : State) (v : Word), s.busy = true →
    exec (.crcSet (v.extractLsb' 0 7)) s = .next { s with wign := true } ∧
    exec (.crcFeed (v.extractLsb' 0 8)) s = .next { s with wign := true }) ∧
  (∀ v : Word, decodeHost true 0x014#10 v = .ok (.crcSet (v.extractLsb' 0 7)) ∧
    decodeHost true 0x018#10 v = .ok (.crcFeed (v.extractLsb' 0 8))) ∧
  crc7Update 0x00#8 0x00#7 = 0x00#7 ∧ crc7Update 0x00#8 0x4A#7 = 0x7C#7

/-- R68: while BUSY = 1 a write to a writable register sets WIGN and changes nothing else, whatever its
data; a write to a read-only or reserved offset changes nothing at all. -/
def Obligations.BusyWritesAreDropped : Prop :=
  ∀ (s : State) (off : BitVec 10) (v : Word), s.busy = true → off.toNat % 4 = 0 →
    ∃ i : Instr, decodeHost true off v = .ok i ∧
      exec i s = .next
        (if off.toNat = 0x000 ∨ off.toNat = 0x008 ∨ off.toNat = 0x00C ∨ off.toNat = 0x010 ∨
            off.toNat = 0x014 ∨ off.toNat = 0x018 ∨ 0x200 ≤ off.toNat
         then { s with wign := true } else s)

/-- R135: a write at a read-only or reserved offset has no effect, and sets no WIGN even when BUSY = 1. The
first part names the eleven rows, the second every offset. -/
def Obligations.IgnoredWritesChangeNothing : Prop :=
  (∀ (s : State) (x2 : BitVec 2) (x3 : BitVec 3) (x5 : BitVec 5) (x6 : BitVec 6),
    exec .wrIgnoredStatus s = .next s ∧ exec .wrIgnoredAcmd41cnt s = .next s ∧
    exec .wrIgnoredWresp s = .next s ∧ exec .wrIgnoredPayload s = .next s ∧
    exec .wrIgnoredR1stat s = .next s ∧ exec .wrIgnoredRsv02C s = .next s ∧
    exec (.wrIgnoredRsv030To03C x2) s = .next s ∧ exec (.wrIgnoredResp x3) s = .next s ∧
    exec (.wrIgnoredFrame060To07C x3) s = .next s ∧ exec (.wrIgnoredRsv080To0FC x5) s = .next s ∧
    exec (.wrIgnoredRsv100To1FC x6) s = .next s) ∧
  (∀ (s : State) (off : BitVec 10) (v : Word), off.toNat % 4 = 0 →
    off.toNat = 0x004 ∨ (0x01C ≤ off.toNat ∧ off.toNat < 0x200) →
    ∃ i : Instr, decodeHost true off v = .ok i ∧ exec i s = .next s)

/-! ## Starting an operation -/

/-- R132: an accepted CTRL write stores OP, clears DONE, WIGN, ERR and DETAIL, latches the operands, clears
`cs_owned`, and sets BUSY with the sequencer at the operation's start; a reserved op code and a SEND_CMD whose
RESPLEN is not 1 to 8 end at once; with BUSY = 1 the write sets WIGN and changes nothing else. The op code is
bits 2:0 of the word written; the others are ignored. -/
def Obligations.CtrlWriteStartsTheOperation : Prop :=
  ∀ s : State,
    let latched (op : BitVec 3) : State :=
      { s with ctrlOp := op, done := false, wign := false, err := .none, detail := .none,
               lOp := op, lIdx := s.cmdIdx, lArg := s.arg, lLen := s.respLen, csOwned := false }
    let started (op : BitVec 3) (o : Op) : State :=
      { latched op with busy := true, seq := .run (.start o) }
    let ended (op : BitVec 3) (d : Detail) : State :=
      { latched op with err := .illegal, detail := d, seq := .idle, busy := false, done := true }
    (s.busy = false →
      (1 ≤ s.respLen.toNat ∧ s.respLen.toNat ≤ 8 →
        exec .sendCmd s = .next (started 1#3 .sendCmd)) ∧
      (s.respLen.toNat = 0 ∨ 9 ≤ s.respLen.toNat →
        exec .sendCmd s = .next (ended 1#3 .badResplen)) ∧
      exec .init s = .next (started 2#3 .init) ∧
      exec .readBlock s = .next (started 3#3 .readBlock) ∧
      exec .writeBlock s = .next (started 4#3 .writeBlock) ∧
      exec .opReserved0 s = .next (ended 0#3 .badOp) ∧
      exec .opReserved5 s = .next (ended 5#3 .badOp) ∧
      exec .opReserved6 s = .next (ended 6#3 .badOp) ∧
      exec .opReserved7 s = .next (ended 7#3 .badOp)) ∧
    (s.busy = true →
      ∀ i ∈ [Instr.sendCmd, .init, .readBlock, .writeBlock, .opReserved0, .opReserved5,
        .opReserved6, .opReserved7], exec i s = .next { s with wign := true }) ∧
    (∀ v : Word, decodeHost true 0x000#10 v = .ok
      (match (v.extractLsb' 0 3).toNat with
        | 1 => .sendCmd | 2 => .init | 3 => .readBlock | 4 => .writeBlock | 5 => .opReserved5
        | 6 => .opReserved6 | 7 => .opReserved7 | _ => .opReserved0))

/-- R133: a reserved op code or a bad response length ends the operation within the same host write: BUSY
is not set, no request is issued, and no register but CTRL.OP and STATUS changes. Stated of every CTRL
write, by its data word: bits 31:3 do not matter. -/
def Obligations.IllegalStartEndsAtOnce : Prop :=
  ∀ (s : State) (v : Word), s.busy = false →
    let op := v.extractLsb' 0 3
    op = 0#3 ∨ 5 ≤ op.toNat ∨ (op = 1#3 ∧ (s.respLen.toNat = 0 ∨ 9 ≤ s.respLen.toNat)) →
    ∃ (i : Instr) (t : State), decodeHost true 0x000#10 v = .ok i ∧ exec i s = .next t ∧
      t.ctrlOp = op ∧ t.err = .illegal ∧
      t.detail = (if op = 1#3 then .badResplen else .badOp) ∧ t.done = true ∧ t.wign = false ∧
      t.busy = false ∧ t.seq = .idle ∧ t.req = s.req ∧ t.wire = s.wire ∧ t.csst = s.csst ∧
      t.initst = s.initst ∧ t.cmdIdx = s.cmdIdx ∧ t.arg = s.arg ∧ t.respLen = s.respLen ∧
      t.crcAcc = s.crcAcc ∧ t.acmd41cnt = s.acmd41cnt ∧ t.wresp = s.wresp ∧ t.resp = s.resp ∧
      t.frame = s.frame ∧ t.data = s.data

/-- R178, R220, R251, R256: the first step of each operation. SEND_CMD and READ_BLOCK build their frame from
the latched operands; INIT clears ACMD41CNT, enters POWERUP and sends the first chunk of N_POWERUP FILL bytes
with no CS request; WRITE_BLOCK copies DATA into WCOPY, clears WRESP and builds its frame. That this much is one
step, and that FRAME is written in it while RESP is cleared and T0 sampled in the next one, is the model's choice
(log entry 14). -/
def Obligations.FirstStepOfEachOperation : Prop :=
  ∀ s : State, s.undisturbed = true →
    (s.seq = .run (.start .sendCmd) →
      step s = .next { s with frame := buildFrame s.lIdx s.lArg, seq := .run (.issueCmd .user) }) ∧
    (s.seq = .run (.start .init) →
      let piece := Request.bulk (List.replicate (min s.params.chunkSize s.params.nPowerup) 0xFF#8)
      step s = .next { s with acmd41cnt := 0#32, initst := .powerup, req := some piece,
                              wire := piece :: s.wire, seq := .run (.xfer .powerUp 0) }) ∧
    (s.seq = .run (.start .readBlock) →
      step s = .next { s with frame := buildFrame 17#6 s.lArg, seq := .run (.issueCmd .cmd17) }) ∧
    (s.seq = .run (.start .writeBlock) →
      step s = .next { s with wcopy := s.data, wresp := 0x00#8, frame := buildFrame 24#6 s.lArg,
                              seq := .run (.issueCmd .cmd24) })

/-! ## Command frames -/

/-- R170: BuildFrame gives byte 0 = 0x40 | idx, the argument big-endian, and byte 5 = the CRC7 of those
five bytes shifted left by one, OR 1; its start bits are 01 and its stop bit 1; and it is written to FRAME.
With the rule's examples and the frames of R104. -/
def Obligations.BuildFrameBytes : Prop :=
  (∀ (idx : BitVec 6) (arg : Word),
    let f := buildFrame idx arg
    let crc := crc7Of [f[0], f[1], f[2], f[3], f[4]]
    f[0] = 0x40#8 ||| (0#2 ++ idx) ∧ f[1] = arg.extractLsb' 24 8 ∧ f[2] = arg.extractLsb' 16 8 ∧
    f[3] = arg.extractLsb' 8 8 ∧ f[4] = arg.extractLsb' 0 8 ∧
    f[5] = ((0#1 ++ crc) <<< 1) ||| 1#8 ∧
    (f[0]).extractLsb' 6 2 = 1#2 ∧ (f[5]).getLsbD 0 = true) ∧
  (∀ (s : State) (w : Cmd),
    s.enterCmd w = { s with frame := buildFrame (w.idx s) (w.arg s), seq := .run (.issueCmd w) }) ∧
  buildFrame 8#6 0x000001AA#32 = #v[0x48#8, 0x00#8, 0x00#8, 0x01#8, 0xAA#8, 0x87#8] ∧
  (buildFrame 63#6 0#32)[0] = 0x7F#8 ∧
  buildFrame 17#6 0xFFFFFFFF#32 = #v[0x51#8, 0xFF#8, 0xFF#8, 0xFF#8, 0xFF#8, 0x7F#8] ∧
  buildFrame 0#6 0#32 = #v[0x40#8, 0x00#8, 0x00#8, 0x00#8, 0x00#8, 0x95#8] ∧
  buildFrame 55#6 0#32 = #v[0x77#8, 0x00#8, 0x00#8, 0x00#8, 0x00#8, 0x65#8] ∧
  buildFrame 41#6 0x40000000#32 = #v[0x69#8, 0x40#8, 0x00#8, 0x00#8, 0x00#8, 0x77#8] ∧
  buildFrame 58#6 0#32 = #v[0x7A#8, 0x00#8, 0x00#8, 0x00#8, 0x00#8, 0xFD#8]

/-- R171 up to its first request, R173, R202, R226: sending a frame sets RESP to 0xFF throughout, puts the
frame in FRAME, samples T0, and requests CS_ASSERT with `cs_owned` set. Only INIT's own ACMD41 counts in
ACMD41CNT, and the count saturates (R29). That a frame is sent as its bytes stand, whatever its CRC7 field and
whichever command is being sent, is the model's choice (log entry 13). -/
def Obligations.FrameRowsOpenTheExchange : Prop :=
  ∀ (s : State) (w : Cmd), s.seq = .run (.issueCmd w) →
    let sent (s : State) (frame : Vector Byte 6) : State :=
      { s with resp := Vector.replicate 8 0xFF#8, frame := frame, t0 := s.now, csOwned := true,
               req := some .csAssert, wire := .csAssert :: s.wire, seq := .run (.csOn (.cmd w)) }
    (∀ (idx : BitVec 6) (arg : Word) (crc : BitVec 7), exec (.cmdn idx arg crc) s =
      .next (sent s #v[1#2 ++ idx, arg.extractLsb' 24 8, arg.extractLsb' 16 8,
        arg.extractLsb' 8 8, arg.extractLsb' 0 8, crc ++ 1#1])) ∧
    exec .cmd0 s = .next (sent s #v[0x40#8, 0x00#8, 0x00#8, 0x00#8, 0x00#8, 0x95#8]) ∧
    exec .cmd8 s = .next (sent s #v[0x48#8, 0x00#8, 0x00#8, 0x01#8, 0xAA#8, 0x87#8]) ∧
    exec .cmd55 s = .next (sent s #v[0x77#8, 0x00#8, 0x00#8, 0x00#8, 0x00#8, 0x65#8]) ∧
    exec .acmd41 s = .next (sent
      { s with acmd41cnt :=
          if w = .acmd41 then BitVec.ofNat 32 (min (s.acmd41cnt.toNat + 1) 0xFFFFFFFF)
          else s.acmd41cnt }
      #v[0x69#8, 0x40#8, 0x00#8, 0x00#8, 0x00#8, 0x77#8]) ∧
    (∀ (arg : Word) (crc : BitVec 7), exec (.cmd17 arg crc) s =
      .next (sent s #v[0x51#8, arg.extractLsb' 24 8, arg.extractLsb' 16 8, arg.extractLsb' 8 8,
        arg.extractLsb' 0 8, crc ++ 1#1])) ∧
    (∀ (arg : Word) (crc : BitVec 7), exec (.cmd24 arg crc) s =
      .next (sent s #v[0x58#8, arg.extractLsb' 24 8, arg.extractLsb' 16 8, arg.extractLsb' 8 8,
        arg.extractLsb' 0 8, crc ++ 1#1]))

/-! ## Responses, the token and the write status byte -/

/-- R171 steps 4 to 6, R172, R174: the R1 byte goes to RESP[0]. A command that asked for one byte closes
its exchange; one that asked for more requests the first chunk of the remainder. -/
def Obligations.R1EndsItsPoll : Prop :=
  ∀ (s : State) (w : Cmd) (e : BitVec 6) (i : BitVec 1), s.seq = .run (.poll (.r1 w)) →
    let r : Byte := 0#1 ++ e ++ i
    (w.len s ≤ 1 → exec (.r1 e i) s =
      .next { s with resp := s.resp.set 0 r, csOwned := false, req := some .csDeassert,
                     wire := .csDeassert :: s.wire, seq := .run (.csOff (.cmd w)) }) ∧
    (1 < w.len s →
      let piece := Request.bulk (List.replicate (min s.params.chunkSize (w.len s - 1)) 0xFF#8)
      exec (.r1 e i) s =
        .next { s with resp := s.resp.set 0 r, req := some piece, wire := piece :: s.wire,
                       seq := .run (.xfer (.rest w) 0) })

/-- R106, R171 steps 5 and 6, R31, R32: a complete five-byte response is in RESP[0..4], the rest of RESP
stays, PAYLOAD and R1STAT show it, and the exchange is closed. -/
def Obligations.R1PayloadEndsItsExchange : Prop :=
  ∀ (s : State) (w : Cmd) (c : Nat) (e : BitVec 6) (i : BitVec 1) (p : Word),
    s.seq = .run (.xfer (.rest w) c) →
    let t : State :=
      { s with resp := #v[0#1 ++ e ++ i, p.extractLsb' 24 8, p.extractLsb' 16 8, p.extractLsb' 8 8,
                          p.extractLsb' 0 8, s.resp[5], s.resp[6], s.resp[7]],
               csOwned := false, req := some .csDeassert, wire := .csDeassert :: s.wire,
               seq := .run (.csOff (.cmd w)) }
    exec (.r1Payload e i p) s = .next t ∧ t.payloadWord = p ∧
      t.r1statWord = 0#16 ++ e ++ i ++ 1#1 ++ 0#1 ++ e ++ i

/-- R253, R257, R107: received in the token poll, 0xFE is not stored and the first chunk of the block is
requested; sent by WRITE_BLOCK, it is one BULK of one byte. -/
def Obligations.DataStartOpensTheBlock : Prop :=
  ∀ s : State,
    (s.seq = .run (.poll .token) →
      let piece := Request.bulk (List.replicate (min s.params.chunkSize 512) 0xFF#8)
      exec .dataStart s = .next { s with req := some piece, wire := piece :: s.wire,
                                         seq := .run (.xfer .block 0) }) ∧
    (s.seq = .run .issueToken → 1 ≤ s.params.chunkSize →
      exec .dataStart s = .next { s with req := some (.bulk [0xFE#8]),
                                         wire := .bulk [0xFE#8] :: s.wire,
                                         seq := .run (.xfer .token 0) })

/-- R258, R108: a non-zero byte ends the write busy poll, is kept in WRESP undecoded, and the padding is
requested; a zero byte asks for the next one while the deadline has not passed, and ends the operation with
WBUSY_POLL_TIMEOUT through the failure path once it has. -/
def Obligations.WriteStatusByteIsNotDecoded : Prop :=
  ∀ s : State, s.seq = .run (.poll .wbusy) →
    (∀ b : Byte, b ≠ 0x00#8 →
      let piece := Request.bulk (List.replicate (min s.params.chunkSize 8) 0xFF#8)
      exec (.writeStatus b) s = .next { s with wresp := b, req := some piece,
                                               wire := piece :: s.wire,
                                               seq := .run (.xfer .writePad 0) }) ∧
    (elapsed s.params.timeWidth s.now s.t0 ≤ s.params.tWbusy →
      exec (.writeStatus 0x00#8) s =
        .next { s with req := some (.bulk [0xFF#8]), wire := .bulk [0xFF#8] :: s.wire,
                       seq := .run (.poll .wbusy) }) ∧
    (s.params.tWbusy < elapsed s.params.timeWidth s.now s.t0 → s.csOwned = true →
      exec (.writeStatus 0x00#8) s =
        .next { s with csOwned := false, req := some .csDeassert, wire := .csDeassert :: s.wire,
                       seq := .run (.failCs .writeBlock .wbusyPollTimeout) })

/-- The model's own choice (log entry 12): a wire row whose sequencer point is not the one that sends or
receives it is refused by name; `step` never runs one there, from any state. -/
def Obligations.WireRowsOutOfPlaceAreRefused : Prop :=
  ∀ s : State,
    step s ≠ .refused .wireOutOfPlace ∧
    ((∀ w, s.seq ≠ .run (.issueCmd w)) →
      ∀ i : Instr, i.format = .cmdFrame → exec i s = .refused .wireOutOfPlace) ∧
    ((∀ w, s.seq ≠ .run (.poll (.r1 w))) →
      ∀ e i, exec (.r1 e i) s = .refused .wireOutOfPlace) ∧
    ((∀ w c, s.seq ≠ .run (.xfer (.rest w) c)) →
      ∀ e i p, exec (.r1Payload e i p) s = .refused .wireOutOfPlace) ∧
    (s.seq ≠ .run (.poll .token) → s.seq ≠ .run .issueToken →
      exec .dataStart s = .refused .wireOutOfPlace) ∧
    (s.seq ≠ .run (.poll .wbusy) →
      ∀ b, exec (.writeStatus b) s = .refused .wireOutOfPlace)

/-! ## Chip-select -/

/-- R41: STATUS.CSST follows the transport's answers: ASSERTED after an `ok` to CS_ASSERT, DEASSERTED after an
`ok` to CS_DEASSERT, UNKNOWN after a `fail` to either, unchanged by the answer to a BULK. The answers are those
R40 allows the request; ResetAbandonsEverything says what any other does. It is status only: no step but a host
read depends on it. -/
def Obligations.CsstFollowsTheAnswers : Prop :=
  (∀ (s t : State) (r : Request) (a : Answer) (rest : List Event), s.Inv → s.req = some r →
    s.inbox = .answer a :: rest → r.fits a = true → step s = .next t →
    t.csst = match r, a with
      | .csAssert, .ok _ => .asserted
      | .csDeassert, .ok _ => .deasserted
      | .csAssert, .fail => .unknown
      | .csDeassert, .fail => .unknown
      | .bulk _, _ => s.csst) ∧
  (∀ (s : State) (c : CsState), (∀ a rest, s.inbox = .host a :: rest → a.write = true) →
    match step s with
    | .next t => ∃ c', step { s with csst := c } = .next { t with csst := c' }
    | .fault f => step { s with csst := c } = .fault f
    | .refused r => step { s with csst := c } = .refused r)

/-- R202: CsOn sets `cs_owned` before its request. An `ok` leaves CSST = ASSERTED, and the exchange goes on: a
command sends its frame (R171 step 3), a read samples T0 and polls (R251, R253), a write is about to send its
token (R256). A `fail` leaves CSST = UNKNOWN and is followed by one CS_DEASSERT from the failure path. That a write
stops there with no request outstanding, its token sent by a step of its own, is the model's choice (log entry
14). -/
def Obligations.CsAssertOpensTheExchange : Prop :=
  (∀ (s : State) (b : Exchange),
    s.beginCsOn b = { s with csOwned := true, req := some .csAssert, wire := .csAssert :: s.wire,
                             seq := .run (.csOn b) }) ∧
  ∀ (s : State) (b : Exchange) (rest : List Event), s.seq = .run (.csOn b) →
    s.req = some .csAssert →
    (s.inbox = .answer (.ok []) :: rest →
      step s = .next (match b with
        | .cmd w =>
          let piece := Request.bulk (s.frame.toList.take s.params.chunkSize)
          { s with inbox := rest, csst := .asserted, req := some piece, wire := piece :: s.wire,
                   seq := .run (.xfer (.frame w) 0) }
        | .read =>
          { s with inbox := rest, csst := .asserted, t0 := s.now, req := some (.bulk [0xFF#8]),
                   wire := .bulk [0xFF#8] :: s.wire, seq := .run (.poll .token) }
        | .write =>
          { s with inbox := rest, csst := .asserted, req := none, seq := .run .issueToken })) ∧
    (s.inbox = .answer .fail :: rest → s.csOwned = true →
      step s = .next { s with inbox := rest, csst := .unknown, csOwned := false,
                              req := some .csDeassert, wire := .csDeassert :: s.wire,
                              seq := .run (.failCs b.op .csAssertFail) })

/-- R203: CsOff clears `cs_owned` before its request. An `ok` leaves CSST = DEASSERTED; after a `fail` the
operation ends with CS_DEASSERT_FAIL, CSST = UNKNOWN, and no second CS_DEASSERT is issued. -/
def Obligations.CsDeassertClosesTheExchange : Prop :=
  (∀ (s : State) (b : Exchange),
    s.beginCsOff b = { s with csOwned := false, req := some .csDeassert,
                              wire := .csDeassert :: s.wire, seq := .run (.csOff b) }) ∧
  ∀ (s : State) (b : Exchange) (rest : List Event), s.seq = .run (.csOff b) →
    s.req = some .csDeassert →
    (s.inbox = .answer (.ok []) :: rest → ∃ t, step s = .next t ∧ t.csst = .deasserted) ∧
    (s.inbox = .answer .fail :: rest → s.csOwned = false →
      step s = .next { s with inbox := rest, req := none, csst := .unknown, err := .transport,
                              detail := .csDeassertFail, csOwned := false, seq := .idle,
                              busy := false, done := true })

/-! ## What follows an exchange -/

/-- R178, R251, R256, R134: when the last CS_DEASSERT of SEND_CMD, READ_BLOCK or WRITE_BLOCK is answered `ok`,
the operation ends in that one event with ERR = NONE, whatever R1 SEND_CMD received; after CMD17 or CMD24 a
non-zero R1 ends the operation with no further request, and R1 = 0x00 requests the second CS_ASSERT. -/
def Obligations.ExchangesEndTheirOperation : Prop :=
  ∀ (s : State) (b : Exchange) (rest : List Event), s.seq = .run (.csOff b) →
    s.req = some .csDeassert → s.csOwned = false → s.inbox = .answer (.ok []) :: rest →
    let closed : State := { s with inbox := rest, req := none, csst := .deasserted }
    let ended (k : ErrKind) (d : Detail) : State :=
      { closed with err := k, detail := d, seq := .idle, busy := false, done := true }
    let opened (b : Exchange) : State :=
      { closed with csOwned := true, req := some .csAssert, wire := .csAssert :: s.wire,
                    seq := .run (.csOn b) }
    (b = .read ∨ b = .write ∨ b = .cmd .user → step s = .next (ended .none .none)) ∧
    (b = .cmd .cmd17 → step s = .next
      (if s.resp[0] = 0x00#8 then opened .read else ended .protocol .cmd17NotSuccess)) ∧
    (b = .cmd .cmd24 → step s = .next
      (if s.resp[0] = 0x00#8 then opened .write else ended .protocol .cmd24NotSuccess))

/-- R229 with R220 to R228: the transitions of INIT when a command exchange has closed. CMD0 needs R1 = 0x01;
CMD8 needs R1 = 0x01 and then the echo 0xAA; CMD55 needs R1 = 0x01; an ACMD41 answered 0x00 makes the card
READY, even past the deadline; any other answer goes back to CMD55 within T_INIT and times out past it. That the
next frame is built in this step and sent in the next is the model's choice (log entry 14). -/
def Obligations.InitTransitionTable : Prop :=
  ∀ (s : State) (w : Cmd) (rest : List Event), s.seq = .run (.csOff (.cmd w)) →
    s.req = some .csDeassert → s.csOwned = false → s.inbox = .answer (.ok []) :: rest →
    let closed : State := { s with inbox := rest, req := none, csst := .deasserted }
    let failed (k : ErrKind) (d : Detail) : State :=
      { closed with err := k, detail := d, seq := .idle, busy := false, done := true }
    let cmd55 (s : State) : State :=
      { s with frame := #v[0x77#8, 0x00#8, 0x00#8, 0x00#8, 0x00#8, 0x65#8],
               seq := .run (.issueCmd .cmd55) }
    (w = .cmd0 → step s = .next
      (if s.resp[0] = 0x01#8 then
        { closed with initst := .ifcheck, seq := .run (.issueCmd .cmd8),
                      frame := #v[0x48#8, 0x00#8, 0x00#8, 0x01#8, 0xAA#8, 0x87#8] }
       else failed .protocol .cmd0NotIdle)) ∧
    (w = .cmd8 → step s = .next
      (if s.resp[0] ≠ 0x01#8 then failed .protocol .cmd8NotIdle
       else if s.resp[4] ≠ 0xAA#8 then failed .protocol .cmd8EchoMismatch
       else cmd55 { closed with initst := .voltneg, t0Init := s.now })) ∧
    (w = .cmd55 → step s = .next
      (if s.resp[0] = 0x01#8 then
        { closed with frame := #v[0x69#8, 0x40#8, 0x00#8, 0x00#8, 0x00#8, 0x77#8],
                      seq := .run (.issueCmd .acmd41) }
       else failed .protocol .cmd55NotIdle)) ∧
    (w = .acmd41 → step s = .next
      (if s.resp[0] = 0x00#8 then { failed .none .none with initst := .ready }
       else if s.params.tInit < elapsed s.params.timeWidth s.now s.t0Init then
         failed .timeout .initLoopTimeout
       else cmd55 closed))

/-! ## Chunked transfers -/

/-- R201: the chunks of a byte string are `ceil(len / CHUNK_SIZE)`, none empty, none longer than CHUNK_SIZE,
and their concatenation is the string. -/
def Obligations.ChunksRebuildTheString : Prop :=
  ∀ (size : Nat) (str : List Byte), 1 ≤ size → 1 ≤ str.length →
    (chunks size str).flatten = str ∧
    size * ((chunks size str).length - 1) < str.length ∧
    str.length ≤ size * (chunks size str).length ∧
    ∀ piece ∈ chunks size str, 1 ≤ piece.length ∧ piece.length ≤ size

/-- R200, R201, R252, R171: chunks of a transfer answered `ok`, one step each; the bytes answered have the
lengths of their chunks. (1) From any chunk, with chunks still to come: each answer requests the next chunk, and
the bytes received so far have landed. (2) From the first chunk to the last: the requests are the chunks in their
order, the bytes land in DATA for a read block, in RESP for a response remainder, nowhere else, and the
pseudocode goes on. (3) Some chunks `ok` and the next one `fail`: no later chunk is requested; the bytes of the
chunks before it stay landed; only the failing chunk's own bytes, in DATA (R252) and in RESP, are left open (R205,
R286; against the wider words of R174, log entry 27); the failure path follows. That a response's bytes land in RESP chunk by chunk,
where R171 writes them after the whole transfer, is the model's choice (log entry 16). -/
def Obligations.TransferSendsEveryChunk : Prop :=
  (∀ (s : State) (x : Xfer) (c : Nat) (got : List (List Byte)) (rest : List Event), s.Inv →
    s.seq = .run (.xfer x c) → s.inbox = answersOf got ++ rest →
    let size := s.params.chunkSize
    let pieces := chunks size (x.outgoing s)
    c + got.length < pieces.length →
    got.map List.length = ((pieces.drop c).take got.length).map List.length →
    ∃ (resp : Vector Byte 8) (data : Memory),
      let u : State :=
        { s with inbox := rest, req := some (.bulk (pieces.getD (c + got.length) [])), resp := resp,
                 data := data,
                 wire := (((pieces.drop (c + 1)).take got.length).map Request.bulk).reverse ++ s.wire,
                 seq := .run (.xfer x (c + got.length)) }
      steps got.length s = .next u ∧ landedFrom s u x (c * size) got.flatten) ∧
  (∀ (s : State) (x : Xfer) (got : List (List Byte)) (rest : List Event), s.Inv →
    s.seq = .run (.xfer x 0) → s.inbox = answersOf got ++ rest →
    let pieces := chunks s.params.chunkSize (x.outgoing s)
    got.map List.length = pieces.map List.length →
    ∃ (resp : Vector Byte 8) (data : Memory),
      let u : State :=
        { s with inbox := rest, req := none, resp := resp, data := data,
                 wire := ((pieces.drop 1).map Request.bulk).reverse ++ s.wire,
                 seq := .run (.xfer x (got.length - 1)) }
      steps got.length s = .next (u.afterXfer x) ∧ landedFrom s u x 0 got.flatten) ∧
  (∀ (s : State) (x : Xfer) (c : Nat) (got : List (List Byte)) (rest : List Event), s.Inv →
    s.seq = .run (.xfer x c) → s.inbox = answersOf got ++ .answer .fail :: rest →
    let size := s.params.chunkSize
    let pieces := chunks size (x.outgoing s)
    c + got.length < pieces.length →
    got.map List.length = ((pieces.drop c).take got.length).map List.length →
    ∃ (before : State) (resp : Vector Byte 8) (data : Memory) (draws : Nat),
      let lost : State :=
        { s with inbox := rest, resp := resp, data := data, draws := draws,
                 wire := (((pieces.drop (c + 1)).take got.length).map Request.bulk).reverse ++ s.wire }
      landedFrom s before x (c * size) got.flatten ∧
      steps (got.length + 1) s = .next
        (if s.csOwned then
          { lost with csOwned := false, req := some .csDeassert, wire := .csDeassert :: lost.wire,
                      seq := .run (.failCs x.op .xferFail) }
        else
          { lost with req := none, err := .transport, detail := .xferFail, seq := .idle,
                      busy := false, done := true }) ∧
      (∀ k : Fin 8,
        (∀ w, x = .rest w → k.val < 1 + (c + got.length) * size ∨
          1 + (c + got.length + 1) * size ≤ k.val ∨ w.len s ≤ k.val) →
        resp[k] = before.resp[k]) ∧
      (∀ j : Nat,
        (x = .block → j < (c + got.length) * size ∨ (c + got.length + 1) * size ≤ j ∨ 512 ≤ j) →
        lost.dataByte j = before.dataByte j))

/-- R171, R220, R251, R254, R256, R257, R259: what follows the last chunk of each transfer whose received bytes
are discarded. That CMD0 is built in this step and sent in the next is the model's choice (log entry 14). -/
def Obligations.AfterADiscardedTransfer : Prop :=
  ∀ (s : State) (x : Xfer) (c : Nat) (str bs : List Byte) (rest : List Event),
    s.seq = .run (.xfer x c) → s.req = some (.bulk str) → bs.length = str.length →
    s.inbox = .answer (.ok bs) :: rest → x.size s ≤ (c + 1) * s.params.chunkSize →
    let fills (n : Nat) := Request.bulk (List.replicate (min s.params.chunkSize n) 0xFF#8)
    let asks (s : State) (r : Request) (p : Point) : State :=
      { s with inbox := rest, req := some r, wire := r :: s.wire, seq := .run p }
    (x = .powerUp → step s = .next
      { s with inbox := rest, req := none, initst := .reset, seq := .run (.issueCmd .cmd0),
               frame := #v[0x40#8, 0x00#8, 0x00#8, 0x00#8, 0x00#8, 0x95#8] }) ∧
    (∀ w, x = .frame w → step s = .next (asks s (.bulk [0xFF#8]) (.poll (.r1 w)))) ∧
    (x = .readCrc → step s = .next (asks s (fills 8) (.xfer .readPad 0))) ∧
    (x = .readPad → step s = .next { asks s .csDeassert (.csOff .read) with csOwned := false }) ∧
    (x = .token → step s = .next
      (asks s (.bulk (((List.range 512).map s.wcopyByte).take s.params.chunkSize))
        (.xfer .copy 0))) ∧
    (x = .copy → step s = .next (asks s (fills 2) (.xfer .dummyCrc 0))) ∧
    (x = .dummyCrc → step s = .next
      (asks { s with t0 := s.now } (.bulk [0xFF#8]) (.poll .wbusy))) ∧
    (x = .writePad → step s = .next { asks s .csDeassert (.csOff .write) with csOwned := false })

/-- R200, R205, R285, R286: a BULK of a transfer that is answered `fail` stops the transfer. With chip-select
owned one CS_DEASSERT is requested, and no other chunk; without it the operation ends at once. Nothing else
changes but the failing chunk's own bytes, in RESP or in DATA: none before it and none after it (R252, R286). That
the RESP bytes after it stay as they were, where R174 speaks of any bytes from it on, is the model's reading (log
entry 27). -/
def Obligations.FailingChunkStopsTheTransfer : Prop :=
  ∀ (s : State) (x : Xfer) (c : Nat) (str : List Byte) (rest : List Event),
    s.seq = .run (.xfer x c) → s.req = some (.bulk str) → s.inbox = .answer .fail :: rest →
    ∃ (resp : Vector Byte 8) (data : Memory) (draws : Nat),
      let lost : State := { s with inbox := rest, resp := resp, data := data, draws := draws }
      (s.csOwned = true → step s = .next
        { lost with csOwned := false, req := some .csDeassert, wire := .csDeassert :: s.wire,
                    seq := .run (.failCs x.op .xferFail) }) ∧
      (s.csOwned = false → step s = .next
        { lost with req := none, err := .transport, detail := .xferFail, seq := .idle,
                    busy := false, done := true }) ∧
      (∀ k : Fin 8, (∀ w, x = .rest w → k.val < 1 + c * s.params.chunkSize ∨
          1 + (c + 1) * s.params.chunkSize ≤ k.val ∨ w.len s ≤ k.val) →
        resp[k] = s.resp[k]) ∧
      (∀ j : Nat, (x = .block →
          j < c * s.params.chunkSize ∨ (c + 1) * s.params.chunkSize ≤ j ∨ 512 ≤ j) →
        lost.dataByte j = s.dataByte j)

/-! ## Polls and time -/

/-- R204 with R172, R253, R258: one iteration of a poll. First the transport answer: a `fail` raises XFER_FAIL.
Then the byte test: a match runs the row it completes, whatever the time. Only then the deadline: past it the
operation fails with the poll's own TIMEOUT, and otherwise one more FILL byte is sent. Last, the hang of R11 (d):
a card that answers for ever with a byte that does not match, while time stands still, holds the block in the
loop for ever, with no error and no end (R291); that inputs can come for ever is the model's field `cycle` (log
entry 26). -/
def Obligations.PollIteration : Prop :=
  ∀ (s : State) (k : PollKind) (rest : List Event), s.seq = .run (.poll k) →
    s.req = some (.bulk [0xFF#8]) →
    let failing (d : Detail) : State :=
      { s with inbox := rest, csOwned := false, req := some .csDeassert,
               wire := .csDeassert :: s.wire, seq := .run (.failCs k.op d) }
    let answered : State := { s with inbox := rest, req := none }
    let matching (b : Byte) : Prop :=
      match k with
      | .r1 _ => b.getLsbD 7 = false
      | .token => b = 0xFE#8
      | .wbusy => b ≠ 0x00#8
    let deadline : Nat :=
      match k with
      | .r1 w => s.params.tR1.toList.getD (w.idx s).toNat 0
      | .token => s.params.tToken
      | .wbusy => s.params.tWbusy
    let detail : Detail :=
      match k with
      | .r1 _ => .r1PollTimeout
      | .token => .tokenPollTimeout
      | .wbusy => .wbusyPollTimeout
    (s.inbox = .answer .fail :: rest → s.csOwned = true → step s = .next (failing .xferFail)) ∧
    (∀ b : Byte, s.inbox = .answer (.ok [b]) :: rest →
      (matching b → step s =
        match k with
        | .r1 _ => exec (.r1 (b.extractLsb' 1 6) (b.extractLsb' 0 1)) answered
        | .token => exec .dataStart answered
        | .wbusy => exec (.writeStatus b) answered) ∧
      (¬ matching b → deadline < elapsed s.params.timeWidth s.now s.t0 → s.csOwned = true →
        step s = .next (failing detail)) ∧
      (¬ matching b → elapsed s.params.timeWidth s.now s.t0 ≤ deadline →
        step s = .next { s with inbox := rest, req := some (.bulk [0xFF#8]),
                                wire := .bulk [0xFF#8] :: s.wire })) ∧
    (∀ b : Byte, s.inbox = [] → s.cycle = [.answer (.ok [b])] → ¬ matching b →
      elapsed s.params.timeWidth s.now s.t0 ≤ deadline →
      ∀ n : Nat, ∃ t, steps n s = .next t ∧ t.seq = s.seq ∧ t.busy = s.busy ∧ t.done = s.done ∧
        t.err = s.err)

/-- R292: elapsed time is exact across a wrap of `now`: for samples taken modulo 2^TIME_WIDTH at true times
`a` and `b`, it is the true interval modulo 2^TIME_WIDTH. Elapsed = D is in time, elapsed = D + 1 is late. -/
def Obligations.ElapsedTimeWraps : Prop :=
  (∀ width a b : Nat, a ≤ b → elapsed width (b % 2 ^ width) (a % 2 ^ width) = (b - a) % 2 ^ width) ∧
  (∀ width a b : Nat, a ≤ b → b - a < 2 ^ width →
    elapsed width (b % 2 ^ width) (a % 2 ^ width) = b - a) ∧
  (∀ (s : State) (anchor deadline : Nat),
    elapsed s.params.timeWidth s.now anchor < 2 ^ s.params.timeWidth ∧
    (s.late anchor deadline = true ↔ deadline < elapsed s.params.timeWidth s.now anchor) ∧
    (elapsed s.params.timeWidth s.now anchor = deadline → s.late anchor deadline = false) ∧
    (elapsed s.params.timeWidth s.now anchor = deadline + 1 → s.late anchor deadline = true))

/-! ## The failure path -/

/-- R285, R288: raising an error requests one CS_DEASSERT exactly when the operation owns chip-select, and
ends the operation at once when it does not. At that CS_DEASSERT either answer ends the operation with the
error that started the failure path; the answer only sets CSST, and no further request is issued. -/
def Obligations.FailurePathKeepsItsError : Prop :=
  (∀ (s : State) (p : Point) (d : Detail), s.seq = .run p →
    s.raise d = if s.csOwned then
      { s with csOwned := false, req := some .csDeassert, wire := .csDeassert :: s.wire,
               seq := .run (.failCs p.op d) }
    else
      { s with err := d.kind, detail := d, csOwned := false, seq := .idle, busy := false,
               done := true }) ∧
  ∀ (s : State) (op : Op) (d : Detail) (rest : List Event), s.seq = .run (.failCs op d) →
    s.req = some .csDeassert →
    let ended (cs : CsState) : State :=
      { s with inbox := rest, req := none, csst := cs, err := d.kind, detail := d,
               csOwned := false, seq := .idle, busy := false, done := true }
    (s.inbox = .answer (.ok []) :: rest → step s = .next (ended .deasserted)) ∧
    (s.inbox = .answer .fail :: rest → step s = .next (ended .unknown))

/-- R282: an operation ends only with ERR = NONE or with one of the errors its row lists; a running block goes
idle in no other way but a reset. -/
def Obligations.OperationsEndWithListedErrors : Prop :=
  ∀ (s t : State) (p : Point), s.Inv → s.seq = .run p → step s = .next t → t.seq = .idle →
    (∃ rest, s.inbox = .reset :: rest) ∨
    (t.done = true ∧ t.busy = false ∧ t.err = t.detail.kind ∧
      (t.detail = .none ∨ t.detail ∈ p.op.causes))

/-- R293: with a request outstanding and nothing left to come, the block is stuck. Until its answer or a reset
comes it waits with BUSY = 1: no error is reported and no request is issued, whatever the host does. -/
def Obligations.UnansweredRequestIsStuck : Prop :=
  (∀ s : State, s.Inv → s.req ≠ none → s.inbox = [] → s.cycle = [] → step s = .fault .stuck) ∧
  (∀ s t : State, s.Inv → s.req ≠ none → (∀ a rest, s.inbox ≠ .answer a :: rest) →
    (∀ rest, s.inbox ≠ .reset :: rest) → step s = .next t →
    t.busy = true ∧ t.seq = s.seq ∧ t.req = s.req ∧ t.wire = s.wire ∧ t.err = s.err ∧
      t.detail = s.detail)

/-! ## The step -/

/-- R113, R62: a 32-bit access inside the window runs the instruction its direction, offset and data decode
to, in the state with that access taken. -/
def Obligations.StepRunsTheHostAccess : Prop :=
  (∀ (s : State) (rw : Bool) (off : BitVec 10) (data : Word) (i : Instr) (rest : List Event),
    s.inbox = .host { width := 32, write := rw, addr := s.params.regBase + off.toNat,
                      data := data } :: rest →
    decodeHost rw off data = .ok i → step s = exec i { s with inbox := rest }) ∧
  (∀ (s : State) (i : Instr) (w : BitVec 48) (rest : List Event), i.format = .hostAccess →
    i.wellFormed = true →
    encode i = [w.extractLsb' 40 8, w.extractLsb' 32 8, w.extractLsb' 24 8, w.extractLsb' 16 8,
      w.extractLsb' 8 8, w.extractLsb' 0 8] →
    s.inbox = .host { width := 32, write := w.getLsbD 42,
                      addr := s.params.regBase + (w.extractLsb' 32 10).toNat,
                      data := w.extractLsb' 0 32 } :: rest →
    step s = exec i { s with inbox := rest })

/-- R171: where the sequencer is about to send a command, the step runs the instruction FRAME decodes to; for
every well-formed frame row placed in FRAME, that row. That the row is the one the bytes stand for, whoever sends
it and whatever the CRC7 field, is the model's choice (log entry 13). -/
def Obligations.StepRunsTheFrame : Prop :=
  (∀ (s : State) (w : Cmd) (i : Instr), s.seq = .run (.issueCmd w) → s.undisturbed = true →
    decode .cmdFrame s.frame.toList = .ok i → step s = exec i s) ∧
  (∀ (s : State) (w : Cmd) (i : Instr), s.seq = .run (.issueCmd w) → s.undisturbed = true →
    i.format = .cmdFrame → i.wellFormed = true → s.frame.toList = encode i → step s = exec i s)

/-- R172, R253, R258, R106, R257: the bytes a point waits for run their row when they arrive: R1 in its poll,
0xFE in the token poll, any byte in the write busy poll, the last chunk of a five-byte response; and the token
of WRITE_BLOCK is sent by the step itself. That the byte formats are told apart by the sequencer's point is log
entry 15, and that R1_PAYLOAD runs at the last chunk of a five-byte response log entry 23, both the model's
choice. -/
def Obligations.StepRunsTheWireRow : Prop :=
  ∀ (s : State) (i : Instr) (rest : List Event), i.wellFormed = true →
    let answered : State := { s with inbox := rest, req := none }
    (i.format = .r1 ∧ (∃ w, s.seq = .run (.poll (.r1 w))) ∨
      i.format = .dataStart ∧ s.seq = .run (.poll .token) ∨
      i.format = .writeStatus ∧ s.seq = .run (.poll .wbusy) →
      s.req = some (.bulk [0xFF#8]) → s.inbox = .answer (.ok (encode i)) :: rest →
      step s = exec i answered) ∧
    (∀ (w : Cmd) (c : Nat), i.format = .r1Payload → s.seq = .run (.xfer (.rest w) c) →
      w.len s = 5 → c * s.params.chunkSize < 4 → 4 ≤ (c + 1) * s.params.chunkSize →
      s.req = some (.bulk (List.replicate (4 - c * s.params.chunkSize) 0xFF#8)) →
      s.resp.toList.take (1 + c * s.params.chunkSize) =
        (encode i).take (1 + c * s.params.chunkSize) →
      s.inbox = .answer (.ok ((encode i).drop (1 + c * s.params.chunkSize))) :: rest →
      step s = exec i answered) ∧
    (i = .dataStart → s.seq = .run .issueToken → s.undisturbed = true → step s = exec i s)

/-- R63, R65: an access that is not 32 bits wide, one outside the 1 KiB window, and one at an offset that is no
multiple of 4 are refused, whatever the block is doing; any other completes. The names, the order (width, window,
alignment), and taking an address below REG_BASE as outside the window are the model's choice (log entry 19). -/
def Obligations.BadHostAccessIsRefused : Prop :=
  ∀ (s : State) (a : HostAccess) (rest : List Event), s.inbox = .host a :: rest →
    (a.width ≠ 32 → step s = .refused .badWidth) ∧
    (a.width = 32 → a.addr < s.params.regBase ∨ s.params.regBase + 0x400 ≤ a.addr →
      step s = .refused .outsideWindow) ∧
    (a.width = 32 → s.params.regBase ≤ a.addr → a.addr < s.params.regBase + 0x400 →
      (a.addr - s.params.regBase) % 4 ≠ 0 → step s = .refused .misaligned) ∧
    (a.width = 32 → s.params.regBase ≤ a.addr → a.addr < s.params.regBase + 0x400 →
      (a.addr - s.params.regBase) % 4 = 0 → ∃ t, step s = .next t)

/-! ## Whole-machine rules -/

/-- The invariant (Sys2Proof/Safety.lean: R6, R34, R36, R37, R38, R40, R43, R47, R69, R96, R206, R260, R281,
R282) is kept by every step, from every state that has it. -/
def Obligations.StepKeepsTheInvariant : Prop :=
  ∀ s t : State, s.Inv → step s = .next t → t.Inv

/-- R24 to R27, R22, R154: only a host access (or a reset) changes CTRL.OP, CMD.IDX, ARG, RESPLEN.LEN or
CRC.ACC, and only while BUSY = 0: no operation writes them. -/
def Obligations.OperationsNeverWriteOperandRegisters : Prop :=
  ∀ s t : State, step s = .next t →
    (∃ rest, s.inbox = .reset :: rest) ∨
    (s.busy = false ∧ ∃ a rest, s.inbox = .host a :: rest) ∨
    (t.ctrlOp = s.ctrlOp ∧ t.cmdIdx = s.cmdIdx ∧ t.arg = s.arg ∧ t.respLen = s.respLen ∧
      t.crcAcc = s.crcAcc)

/-- R35, R255: DATA is written only by a host write while BUSY = 0 and by READ_BLOCK's block as it arrives;
WRITE_BLOCK never changes it. WCOPY is written only when WRITE_BLOCK starts. Reset apart. -/
def Obligations.OnlyReadBlockAndTheHostWriteData : Prop :=
  ∀ s t : State, step s = .next t →
    (∃ rest, s.inbox = .reset :: rest) ∨
    ((t.data = s.data ∨ (s.busy = false ∧ ∃ a rest, s.inbox = .host a :: rest) ∨
        ∃ c, s.seq = .run (.xfer .block c)) ∧
      (t.wcopy = s.wcopy ∨ (s.seq = .run (.start .writeBlock) ∧ t.wcopy = s.data)))

/-- R43, R29, R30, R33, R34, R178: no operation but INIT changes INITST or ACMD41CNT, none but WRITE_BLOCK changes
WRESP; ACMD41CNT only starts again from 0 or counts one ACMD41. RESP changes only in a command exchange: all
0xFF when its frame is sent, RESP[0] at the R1 byte, the bytes after RESP[0] in its remainder (chunk by chunk,
the model's choice, log entry 16). FRAME changes only
where an operation builds the frame it is about to send. The host changes none of them. Reset apart. -/
def Obligations.ResultRegistersHaveOneWriter : Prop :=
  ∀ s t : State, step s = .next t →
    (∃ rest, s.inbox = .reset :: rest) ∨
    ((t.initst = s.initst ∨ ∃ p, s.seq = .run p ∧ p.op = .init) ∧
      (t.acmd41cnt = s.acmd41cnt ∨
        (s.seq = .run (.start .init) ∧ t.acmd41cnt = 0#32) ∨
        (s.seq = .run (.issueCmd .acmd41) ∧ t.acmd41cnt = saturatingSucc s.acmd41cnt)) ∧
      (t.wresp = s.wresp ∨ ∃ p, s.seq = .run p ∧ p.op = .writeBlock) ∧
      (t.resp = s.resp ∨
        (∃ w, s.seq = .run (.issueCmd w) ∧ t.resp = Vector.replicate 8 0xFF#8) ∨
        (∃ w, s.seq = .run (.poll (.r1 w)) ∧
          ∃ b : Byte, b.getLsbD 7 = false ∧ t.resp = s.resp.set 0 b) ∨
        (∃ w c, s.seq = .run (.xfer (.rest w) c) ∧ t.resp[0] = s.resp[0])) ∧
      (t.frame = s.frame ∨
        (s.seq ≠ .idle ∧
          ∃ w, t.seq = .run (.issueCmd w) ∧ t.frame = buildFrame (w.idx s) (w.arg s))) ∧
      ((∃ a rest, s.inbox = .host a :: rest) →
        t.initst = s.initst ∧ t.acmd41cnt = s.acmd41cnt ∧ t.wresp = s.wresp ∧ t.resp = s.resp ∧
          t.frame = s.frame))

/-- R42: only the start and the end of an operation write ERR and DETAIL: a CTRL write while BUSY = 0, or the
step that ends the operation. DONE is set with them and cleared only by the next start. Reset apart. -/
def Obligations.ErrorsAreWrittenAtStartAndEnd : Prop :=
  ∀ s t : State, s.Inv → step s = .next t →
    (∃ rest, s.inbox = .reset :: rest) ∨
    (s.busy = false ∧ ∃ a rest, s.inbox = .host a :: rest ∧ a.write = true ∧
      a.addr = s.params.regBase) ∨
    (s.busy = true ∧ t.busy = false ∧ t.done = true) ∨
    (t.err = s.err ∧ t.detail = s.detail ∧ t.done = s.done)

/-- R36, R37, R68, R69, R78: a host access while an operation runs moves nothing of the operation: not SEQ, not
a latch, not a buffer, not a request. Only WIGN, the value read and the count of draws can change. -/
def Obligations.HostCannotDisturbAnOperation : Prop :=
  ∀ (s t : State) (a : HostAccess) (rest : List Event), s.busy = true →
    s.inbox = .host a :: rest → step s = .next t →
    t = { s with inbox := rest, wign := t.wign, rdata := t.rdata, draws := t.draws } ∧
    (s.wign = true → t.wign = true)

/-- R37, R78, R154: a running operation reads only its latched operands. Replacing CTRL.OP, CMD, ARG, RESPLEN
and CRC.ACC while it runs changes nothing of what a step does but carry the replaced values along. The latches
are unchanged until the next operation starts. -/
def Obligations.OperationsReadOnlyLatchedOperands : Prop :=
  (∀ s t : State, s.busy = true → (∀ rest, s.inbox ≠ .reset :: rest) → step s = .next t →
    t.lOp = s.lOp ∧ t.lIdx = s.lIdx ∧ t.lArg = s.lArg ∧ t.lLen = s.lLen) ∧
  ∀ (s : State) (op : BitVec 3) (idx : BitVec 6) (arg : Word) (len : BitVec 4) (acc : BitVec 7),
    s.seq ≠ .idle → (∀ a rest, s.inbox ≠ .host a :: rest) → (∀ rest, s.inbox ≠ .reset :: rest) →
    let other (s : State) : State :=
      { s with ctrlOp := op, cmdIdx := idx, arg := arg, respLen := len, crcAcc := acc }
    step (other s) =
      match step s with
      | .next t => .next (other t)
      | .fault f => .fault f
      | .refused r => .refused r

/-- R40, R75, R298: a step issues at most one transport request, never while another is outstanding, and an
idle block issues none. Reset apart. -/
def Obligations.OneRequestAtATime : Prop :=
  ∀ s t : State, s.Inv → step s = .next t →
    (∃ rest, s.inbox = .reset :: rest) ∨ t.wire = s.wire ∨
    (s.seq ≠ .idle ∧ ∃ r, t.wire = r :: s.wire ∧ t.req = some r ∧
      (s.req = none ∨ ∃ a rest, s.inbox = .answer a :: rest))

/-! ## Encodings -/

/-- Every well-formed instruction of every format is read back from its own encoding, with every operand at
every value. -/
def Obligations.DecodingAnEncodingGivesItBack : Prop :=
  ∀ i : Instr, i.wellFormed = true → decode i.format (encode i) = .ok i

/-- R100, R105 to R108: on the wire each accepted byte string is the encoding of the one instruction it decodes
to: the decoder drops no bit of a frame, a response, a token or a status byte. -/
def Obligations.EncodingADecodedWireStringGivesItBack : Prop :=
  ∀ (f : Format) (bytes : List Byte) (i : Instr), f ≠ .hostAccess → decode f bytes = .ok i →
    encode i = bytes ∧ i.format = f

/-- R91, R113: the decoder of a HOST_ACCESS agrees with the match/mask rows of spec/opcode_table.json: it
accepts a 43-bit value exactly when one row covers it, that row alone, and then reads that row's
instruction; it refuses a value no row covers. -/
def Obligations.DecoderFollowsTheOpcodeTable : Prop :=
  ∀ w : BitVec 43,
    match decodeHostWord w with
    | .ok i => ∃ r, hostRows.filter (fun r => r.covers w) = [r] ∧ r.mnemonic = i.mnemonic
    | .error _ => hostRows.filter (fun r => r.covers w) = []

/-- Words written out from the encodings of spec/30_encoding.md, R91 to R108, one or more of each format. -/
def Obligations.WordsOfTheSpecDecode : Prop :=
  decode .hostAccess [0x04#8, 0x00#8, 0x00#8, 0x00#8, 0x00#8, 0x02#8] = .ok .init ∧
  decode .hostAccess [0x04#8, 0x08#8, 0x00#8, 0x00#8, 0x00#8, 0x51#8] = .ok (.wrCmd 17#6) ∧
  decode .hostAccess [0x00#8, 0x10#8, 0x00#8, 0x00#8, 0x00#8, 0x00#8] = .ok (.hostRead 0x010#10) ∧
  decode .hostAccess [0x07#8, 0xFC#8, 0x44#8, 0x33#8, 0x22#8, 0x11#8] =
    .ok (.wrData 127#7 0x11#8 0x22#8 0x33#8 0x44#8) ∧
  decode .cmdFrame [0x48#8, 0x00#8, 0x00#8, 0x01#8, 0xAA#8, 0x87#8] = .ok .cmd8 ∧
  decode .cmdFrame [0x51#8, 0x00#8, 0x00#8, 0x00#8, 0x00#8, 0x55#8] = .ok (.cmd17 0#32 0x2A#7) ∧
  decode .cmdFrame [0x7A#8, 0x00#8, 0x00#8, 0x00#8, 0x00#8, 0xFD#8] =
    .ok (.cmdn 58#6 0#32 0x7E#7) ∧
  decode .r1 [0x05#8] = .ok (.r1 0x02#6 1#1) ∧
  decode .r1Payload [0x00#8, 0xC0#8, 0xFF#8, 0x80#8, 0x00#8] = .ok (.r1Payload 0#6 0#1 0xC0FF8000#32) ∧
  decode .dataStart [0xFE#8] = .ok .dataStart ∧
  decode .writeStatus [0x05#8] = .ok (.writeStatus 0x05#8) ∧
  decode .r1 [0xFF#8] = .error .notAResponse ∧
  decode .cmdFrame [0xC0#8, 0x00#8, 0x00#8, 0x00#8, 0x00#8, 0x95#8] = .error .badStartBits ∧
  decode .hostAccess [0x04#8, 0x02#8, 0x00#8, 0x00#8, 0x00#8, 0x00#8] = .error .misaligned

/-! ## CRC7 -/

/-- R150: `crc7_update` is the shift register of the rule's pseudocode, run in an 8-bit accumulator of which
bits 6:0 are used: bit 7 of `c` is ignored and bit 7 of the result is 0. With the rule's examples. -/
def Obligations.CrcUpdateIsTheShiftRegister : Prop :=
  (∀ b c : BitVec 8,
    0#1 ++ crc7Update b (c.extractLsb' 0 7) =
      [7, 6, 5, 4, 3, 2, 1, 0].foldl (fun (s : BitVec 8) (i : Nat) =>
        let fb := b.getLsbD i ^^ s.getLsbD 6
        let s := (s <<< 1) &&& 0x7F#8
        if fb then s ^^^ 0x09#8 else s) (c &&& 0x7F#8)) ∧
  crc7Update 0x00#8 0x00#7 = 0x00#7 ∧ crc7Update 0x40#8 0x00#7 = 0x64#7

/-- R151: `crc7_of` is the fold of `crc7_update` from CRC state 0, with the source's test vector and its running
values. -/
def Obligations.CrcOfAStringIsTheFold : Prop :=
  crc7Of [] = 0#7 ∧ (∀ (s : List Byte) (b : Byte), crc7Of (s ++ [b]) = crc7Update b (crc7Of s)) ∧
  crc7Of [0x40#8] = 0x64#7 ∧ crc7Of [0x40#8, 0x00#8] = 0x6D#7 ∧
  crc7Of [0x40#8, 0x00#8, 0x00#8] = 0x66#7 ∧ crc7Of [0x40#8, 0x00#8, 0x00#8, 0x00#8] = 0x49#7 ∧
  crc7Of [0x40#8, 0x00#8, 0x00#8, 0x00#8, 0x00#8] = 0x4A#7

/-- R155 (1) and (2): the CRC is linear, and zero bytes at the start of a string do not change it. -/
def Obligations.CrcIsLinear : Prop :=
  (∀ (b1 b2 : Byte) (c1 c2 : BitVec 7),
    crc7Update (b1 ^^^ b2) (c1 ^^^ c2) = crc7Update b1 c1 ^^^ crc7Update b2 c2) ∧
  (∀ (k : Nat) (s : List Byte), crc7Of (List.replicate k 0x00#8 ++ s) = crc7Of s)

open Polynomial in
/-- R155: read as polynomials over GF(2), with bit 7 of byte 0 the leading coefficient, `crc7_of(s)` is the
remainder of M(x)·x^7 divided by x^7 + x^3 + 1. -/
def Obligations.CrcIsThePolynomialRemainder : Prop :=
  ∀ s : List Byte,
    let bits {n : Nat} (v : BitVec n) : (ZMod 2)[X] :=
      ∑ i : Fin n, if v.getLsbD i.val then X ^ i.val else 0
    let message : (ZMod 2)[X] := s.foldl (fun m b => m * X ^ 8 + bits b) 0
    bits (crc7Of s) = (message * X ^ 7) %ₘ (X ^ 7 + X ^ 3 + 1)

/-! ## Whole operations -/

/-- R171, R178, R109: SEND_CMD, from the CTRL write to the end, against a transport that answers every request
`ok` while the time input stands still: the requests are the exchange's, in order; poll bytes with bit 7 set
are skipped; RESP holds R1, the bytes that followed it, and 0xFF after them; the operation ends with ERR =
NONE. For every command, argument, legal length and chunk size. -/
def Obligations.SendCmdRunsItsExchange : Prop :=
  ∀ (s : State) (back before payload : List Byte) (r1 : Byte) (rest : List Event), s.Inv →
    s.busy = false → 1 ≤ s.respLen.toNat → s.respLen.toNat ≤ 8 → back.length = 6 →
    (∀ b ∈ before, b.getLsbD 7 = true) → r1.getLsbD 7 = false →
    payload.length = s.respLen.toNat - 1 →
    s.inbox = hostWriteAt s.params 0x000 1#32 ::
      (exchangeAnswers s.params.chunkSize back before r1 payload ++ rest) →
    ∃ (k : Nat) (t : State), steps k s = .next t ∧ t.inbox = rest ∧ t.busy = false ∧
      t.done = true ∧ t.err = .none ∧ t.csst = .deasserted ∧ t.data = s.data ∧
      t.initst = s.initst ∧ t.acmd41cnt = s.acmd41cnt ∧
      t.frame = buildFrame s.cmdIdx s.arg ∧
      t.resp.toList = (r1 :: payload) ++ List.replicate (8 - s.respLen.toNat) 0xFF#8 ∧
      t.wire.reverse = s.wire.reverse ++ exchangeRequests s.params.chunkSize
        (buildFrame s.cmdIdx s.arg) (before.length + 1) payload.length

/-- R230: with the default CHUNK_SIZE, N_POWERUP and ACMD41_RESP_LEN, and every R1 on the first poll byte, an INIT
whose card is ready after the not-ready attempts listed, each with an R1 byte and OCR bytes of its own, succeeds
after exactly 11 + 9·N requests, N one more than those attempts, with INITST = READY and N counted in ACMD41CNT.
The time input stands still. -/
def Obligations.InitTakesElevenPlusNineRequestsPerAttempt : Prop :=
  ∀ (s : State) (attempts : List (Byte × List Byte)) (up1 up2 back echo ocr : List Byte)
    (rest : List Event), s.Inv → s.busy = false → s.params.chunkSize = 6 →
    s.params.nPowerup = 10 → s.params.acmd41RespLen = 5 → up1.length = 6 → up2.length = 4 →
    back.length = 6 → echo.length = 3 → ocr.length = 4 →
    (∀ a ∈ attempts, a.1.getLsbD 7 = false ∧ a.1 ≠ 0x00#8 ∧ a.2.length = 4) →
    let cmd (r1 : Byte) (payload : List Byte) : List Event := exchangeAnswers 6 back [] r1 payload
    s.inbox = hostWriteAt s.params 0x000 2#32 :: (answersOf [up1, up2] ++ cmd 0x01#8 [] ++
      cmd 0x01#8 (echo ++ [0xAA#8]) ++
      attempts.flatMap (fun a => cmd 0x01#8 [] ++ cmd a.1 a.2) ++
      cmd 0x01#8 [] ++ cmd 0x00#8 ocr ++ rest) →
    ∃ (k : Nat) (t : State), steps k s = .next t ∧ t.inbox = rest ∧ t.busy = false ∧
      t.done = true ∧ t.err = .none ∧ t.detail = .none ∧ t.initst = .ready ∧
      t.csst = .deasserted ∧ t.data = s.data ∧
      t.acmd41cnt = BitVec.ofNat 32 (min (attempts.length + 1) 0xFFFFFFFF) ∧
      t.wire.length = s.wire.length + 11 + 9 * (attempts.length + 1)

/-- R251 to R254, R109: READ_BLOCK, from the CTRL write to the end, against a transport that answers every request
`ok`, R1 = 0x00, any bytes but 0xFE before the token, then 512 bytes: DATA holds those bytes, and the requests
are those of the two exchanges, in order. For every address, chunk size and block; the time input stands still. -/
def Obligations.ReadBlockFillsData : Prop :=
  ∀ (s : State) (back before skipped block crc pad : List Byte) (rest : List Event), s.Inv →
    s.busy = false → back.length = 6 → (∀ b ∈ before, b.getLsbD 7 = true) →
    (∀ b ∈ skipped, b ≠ 0xFE#8) → block.length = 512 → crc.length = 2 → pad.length = 8 →
    let size := s.params.chunkSize
    let fills (n : Nat) : List Request := (chunks size (List.replicate n 0xFF#8)).map .bulk
    s.inbox = hostWriteAt s.params 0x000 3#32 ::
      (exchangeAnswers size back before 0x00#8 [] ++
        answersOf ([[]] ++ skipped.map (fun b => [b]) ++ [[0xFE#8]] ++ chunks size block ++
          chunks size crc ++ chunks size pad ++ [[]]) ++ rest) →
    ∃ (k : Nat) (t : State), steps k s = .next t ∧ t.inbox = rest ∧ t.busy = false ∧
      t.done = true ∧ t.err = .none ∧ t.csst = .deasserted ∧
      (∀ i : Nat, t.dataByte i = if i < 512 then block.getD i 0#8 else s.dataByte i) ∧
      t.wire.reverse = s.wire.reverse ++
        exchangeRequests size (buildFrame 17#6 s.arg) (before.length + 1) 0 ++
        ([.csAssert] ++ List.replicate (skipped.length + 1) (.bulk [0xFF#8]) ++ fills 512 ++
          fills 2 ++ fills 8 ++ [.csDeassert])

/-- R255 to R259, R109: WRITE_BLOCK, from the CTRL write to the end, against a transport that answers every request
`ok`, R1 = 0x00 and, after any zero bytes, a non-zero status byte: the bytes sent are the token, DATA as it
was, and the dummy CRC; DATA is unchanged; WRESP holds the status byte. The time input stands still. -/
def Obligations.WriteBlockSendsData : Prop :=
  ∀ (s : State) (back before tok sent crc pad : List Byte) (zeros : Nat) (status : Byte)
    (rest : List Event), s.Inv → s.busy = false → back.length = 6 →
    (∀ b ∈ before, b.getLsbD 7 = true) → tok.length = 1 → sent.length = 512 → crc.length = 2 →
    pad.length = 8 → status ≠ 0x00#8 →
    let size := s.params.chunkSize
    let sends (str : List Byte) : List Request := (chunks size str).map .bulk
    s.inbox = hostWriteAt s.params 0x000 4#32 ::
      (exchangeAnswers size back before 0x00#8 [] ++
        answersOf ([[], tok] ++ chunks size sent ++ chunks size crc ++
          List.replicate zeros [0x00#8] ++ [[status]] ++ chunks size pad ++ [[]]) ++ rest) →
    ∃ (k : Nat) (t : State), steps k s = .next t ∧ t.inbox = rest ∧ t.busy = false ∧
      t.done = true ∧ t.err = .none ∧ t.csst = .deasserted ∧ t.data = s.data ∧
      t.wresp = status ∧
      t.wire.reverse = s.wire.reverse ++
        exchangeRequests size (buildFrame 24#6 s.arg) (before.length + 1) 0 ++
        ([.csAssert, .bulk [0xFE#8]] ++ sends ((List.range 512).map s.dataByte) ++
          sends [0xFF#8, 0xFF#8] ++ List.replicate (zeros + 1) (.bulk [0xFF#8]) ++
          sends (List.replicate 8 0xFF#8) ++ [.csDeassert])

/-! ## The time input and the platform's promises -/

/-- R47, R318 (a) and (b), R76, with U15 of spec/93_implementation_defined.md: a time event makes `now` the tick
modulo 2^TIME_WIDTH and changes nothing else of the block; nothing but it moves `now`; while an operation runs
the time never goes down, and an input that takes it down is refused, as is another agent on the transport. That
the refusal comes at the input and not at the sample is the model's choice (log entry 10), as is that another
agent does nothing to an idle block (log entry 21). -/
def Obligations.TimeGoesForwardInAnOperation : Prop :=
  (∀ (s : State) (n : Nat) (rest : List Event), s.inbox = .time n :: rest →
    let reached := s.wraps * 2 ^ s.params.timeWidth + s.now
    (s.busy = false ∨ reached ≤ n →
      step s = .next { s with inbox := rest, now := n % 2 ^ s.params.timeWidth,
                              wraps := n / 2 ^ s.params.timeWidth }) ∧
    (s.busy = true → n < reached → step s = .refused .timeDecreased)) ∧
  (∀ s t : State, step s = .next t →
    (t.now = s.now ∧ t.wraps = s.wraps) ∨ ∃ n rest, s.inbox = .time n :: rest) ∧
  (∀ s t : State, s.busy = true → step s = .next t →
    s.wraps * 2 ^ s.params.timeWidth + s.now ≤ t.wraps * 2 ^ t.params.timeWidth + t.now) ∧
  (∀ (s : State) (rest : List Event), s.inbox = .otherAgent :: rest →
    (s.busy = false → step s = .next { s with inbox := rest }) ∧
    (s.busy = true → step s = .refused .transportShared))
end

