-- ==== Sys2Proof/Laws/Memory.lean ====
section
/-! SUPPORT. The laws of DATA: a byte written is read back, every other byte stays, and every operation
keeps the canonical form. -/

namespace Sys2Proof.Machine

theorem Memory.read_write_same (m : Memory) (a : Nat) (b : Byte) :
    Memory.read (Memory.write m a b) a = some b := by
  induction m with
  | nil => simp [Memory.write, Memory.read]
  | cons c m ih =>
    unfold Memory.write
    split
    · simp [Memory.read]
    · split
      · simp [Memory.read]
      · have : ¬ c.1 = a := by omega
        simp [Memory.read, this, ih]

theorem Memory.read_write_other (m : Memory) {a a' : Nat} (b : Byte) (h : a' ≠ a) :
    Memory.read (Memory.write m a b) a' = Memory.read m a' := by
  have h' : ¬ a = a' := fun e => h e.symm
  induction m with
  | nil => simp [Memory.write, Memory.read, h']
  | cons c m ih =>
    unfold Memory.write
    split
    · simp [Memory.read, h']
    · split
      · rename_i e
        simp [Memory.read, h', ← e]
      · simp [Memory.read, ih]

theorem Memory.read_write (m : Memory) (a a' : Nat) (b : Byte) :
    Memory.read (Memory.write m a b) a' = if a' = a then some b else Memory.read m a' := by
  split
  · rename_i h; rw [h, Memory.read_write_same]
  · rename_i h; exact Memory.read_write_other m b h

/-- A byte string written is read back byte by byte, and every other byte stays. -/
theorem Memory.read_writeBytes (bs : List Byte) (m : Memory) (a a' : Nat) :
    Memory.read (Memory.writeBytes m a bs) a' =
      if a ≤ a' ∧ a' < a + bs.length then bs[a' - a]? else Memory.read m a' := by
  induction bs generalizing m a with
  | nil =>
    have : ¬ (a ≤ a' ∧ a' < a + 0) := by omega
    simp [Memory.writeBytes]
  | cons b bs ih =>
    rw [Memory.writeBytes, ih, Memory.read_write]
    by_cases h1 : a' = a
    · subst h1
      simp
    · by_cases h2 : a + 1 ≤ a' ∧ a' < a + 1 + bs.length
      · have h3 : a ≤ a' ∧ a' < a + (b :: bs).length := by simp; omega
        have h4 : a' - a = (a' - (a + 1)) + 1 := by omega
        rw [if_pos h2, if_pos h3, h4, List.getElem?_cons_succ]
      · have h3 : ¬ (a ≤ a' ∧ a' < a + (b :: bs).length) := by simp; omega
        rw [if_neg h2, if_neg h3, if_neg h1]

theorem Memory.risesAbove_write {m : Memory} {lo a : Nat} (b : Byte) (hlo : lo < a)
    (h : Memory.risesAbove lo m = true) : Memory.risesAbove lo (Memory.write m a b) = true := by
  induction m generalizing lo with
  | nil => simp [Memory.write, Memory.risesAbove, hlo]
  | cons c m ih =>
    simp only [Memory.risesAbove, Bool.and_eq_true, decide_eq_true_eq] at h
    unfold Memory.write
    split
    · simp [Memory.risesAbove, h.2, *]
    · split
      · rename_i e; subst e; simp [Memory.risesAbove, h.1, h.2]
      · have : c.1 < a := by omega
        simp [Memory.risesAbove, h.1, ih this h.2]

theorem Memory.all_write {m : Memory} {a : Nat} (b : Byte) (p : Host.Cell → Bool)
    (hp : p (a, b) = true) (h : m.all p = true) : (Memory.write m a b).all p = true := by
  induction m with
  | nil => simp [Memory.write, hp]
  | cons c m ih =>
    simp only [List.all_cons, Bool.and_eq_true] at h
    unfold Memory.write
    split
    · simp only [List.all_cons, hp, h.1, h.2, Bool.and_self]
    · split
      · simp only [List.all_cons, hp, h.2, Bool.and_self]
      · simp only [List.all_cons, h.1, ih h.2, Bool.and_self]

/-- Writing a byte of the window keeps the canonical form. -/
theorem Memory.wf_write {m : Memory} {a : Nat} (b : Byte) (h : Memory.wf m = true)
    (h1 : dataBase ≤ a) (h2 : a < dataEnd) : Memory.wf (Memory.write m a b) = true := by
  simp only [Memory.wf, Bool.and_eq_true] at h ⊢
  have : dataBase - 1 < a := by simp only [dataBase] at *; omega
  exact ⟨Memory.risesAbove_write b this h.1, Memory.all_write b _ (by simp [h2]) h.2⟩

/-- Writing a byte string that stays in the window keeps the canonical form. -/
theorem Memory.wf_writeBytes {bs : List Byte} {m : Memory} {a : Nat} (h : Memory.wf m = true)
    (h1 : dataBase ≤ a) (h2 : a + bs.length ≤ dataEnd) :
    Memory.wf (Memory.writeBytes m a bs) = true := by
  induction bs generalizing m a with
  | nil => exact h
  | cons b bs ih =>
    rw [List.length_cons] at h2
    exact ih (Memory.wf_write b h h1 (by omega)) (by omega) (by omega)

/-- Storing a byte string that stays in DATA keeps the canonical form. -/
theorem putData_wf {s : State} {i : Nat} {bs : List Byte} (h : s.data.wf = true)
    (hb : i + bs.length ≤ Config.blockSize) : (s.putData i bs).data.wf = true :=
  Memory.wf_writeBytes h (by simp [dataBase])
    (by simp only [Config.blockSize, dataBase, dataEnd] at *; omega)

/-- DATA after a byte string is stored at DATA[i ..]. -/
theorem putData_dataByte (s : State) (i j : Nat) (bs : List Byte) :
    (s.putData i bs).dataByte j =
      if i ≤ j ∧ j < i + bs.length then (bs[j - i]?).getD 0#8 else s.dataByte j := by
  have e : dataBase + j - (dataBase + i) = j - i := by omega
  simp only [State.dataByte, State.putData, Memory.read_writeBytes, e]
  by_cases h : i ≤ j ∧ j < i + bs.length
  · have h' : dataBase + i ≤ dataBase + j ∧ dataBase + j < dataBase + i + bs.length := by omega
    rw [if_pos h, if_pos h', List.getElem?_eq_getElem (by omega)]
    rfl
  · have h' : ¬ (dataBase + i ≤ dataBase + j ∧ dataBase + j < dataBase + i + bs.length) := by omega
    rw [if_neg h, if_neg h']

/-- Two states with the same DATA and the same draw read the same bytes. -/
theorem dataByte_congr {s t : State} (h : t.data = s.data) (h' : t.dataEpoch = s.dataEpoch)
    (i : Nat) : t.dataByte i = s.dataByte i := by
  simp [State.dataByte, h, h']

/-- At reset every byte of DATA is the draw of its epoch. -/
theorem resetWith_dataByte (p : Params) (i : Nat) :
    (State.resetWith p).dataByte i = Config.dataDraw 0 i := rfl

end Sys2Proof.Machine
end

