-- ==== Sys2Proof/Laws/State.lean ====
section
/-! SUPPORT. What each named update of the state does to each field: one lemma per field per update, true by
rfl, so that no later proof unfolds a record update. -/

namespace Sys2Proof.Machine

variable (s : State)

/-! ### `issue` -/

@[simp] theorem issue_params (r : Request) : (s.issue r).params = s.params := rfl
@[simp] theorem issue_ctrlOp (r : Request) : (s.issue r).ctrlOp = s.ctrlOp := rfl
@[simp] theorem issue_busy (r : Request) : (s.issue r).busy = s.busy := rfl
@[simp] theorem issue_done (r : Request) : (s.issue r).done = s.done := rfl
@[simp] theorem issue_wign (r : Request) : (s.issue r).wign = s.wign := rfl
@[simp] theorem issue_csst (r : Request) : (s.issue r).csst = s.csst := rfl
@[simp] theorem issue_err (r : Request) : (s.issue r).err = s.err := rfl
@[simp] theorem issue_detail (r : Request) : (s.issue r).detail = s.detail := rfl
@[simp] theorem issue_initst (r : Request) : (s.issue r).initst = s.initst := rfl
@[simp] theorem issue_cmdIdx (r : Request) : (s.issue r).cmdIdx = s.cmdIdx := rfl
@[simp] theorem issue_arg (r : Request) : (s.issue r).arg = s.arg := rfl
@[simp] theorem issue_respLen (r : Request) : (s.issue r).respLen = s.respLen := rfl
@[simp] theorem issue_crcAcc (r : Request) : (s.issue r).crcAcc = s.crcAcc := rfl
@[simp] theorem issue_acmd41cnt (r : Request) : (s.issue r).acmd41cnt = s.acmd41cnt := rfl
@[simp] theorem issue_wresp (r : Request) : (s.issue r).wresp = s.wresp := rfl
@[simp] theorem issue_resp (r : Request) : (s.issue r).resp = s.resp := rfl
@[simp] theorem issue_frame (r : Request) : (s.issue r).frame = s.frame := rfl
@[simp] theorem issue_data (r : Request) : (s.issue r).data = s.data := rfl
@[simp] theorem issue_seq (r : Request) : (s.issue r).seq = s.seq := rfl
@[simp] theorem issue_lOp (r : Request) : (s.issue r).lOp = s.lOp := rfl
@[simp] theorem issue_lIdx (r : Request) : (s.issue r).lIdx = s.lIdx := rfl
@[simp] theorem issue_lArg (r : Request) : (s.issue r).lArg = s.lArg := rfl
@[simp] theorem issue_lLen (r : Request) : (s.issue r).lLen = s.lLen := rfl
@[simp] theorem issue_csOwned (r : Request) : (s.issue r).csOwned = s.csOwned := rfl
@[simp] theorem issue_wcopy (r : Request) : (s.issue r).wcopy = s.wcopy := rfl
@[simp] theorem issue_t0 (r : Request) : (s.issue r).t0 = s.t0 := rfl
@[simp] theorem issue_t0Init (r : Request) : (s.issue r).t0Init = s.t0Init := rfl
@[simp] theorem issue_req (r : Request) : (s.issue r).req = some r := rfl
@[simp] theorem issue_wire (r : Request) : (s.issue r).wire = r :: s.wire := rfl
@[simp] theorem issue_now (r : Request) : (s.issue r).now = s.now := rfl
@[simp] theorem issue_wraps (r : Request) : (s.issue r).wraps = s.wraps := rfl
@[simp] theorem issue_inbox (r : Request) : (s.issue r).inbox = s.inbox := rfl
@[simp] theorem issue_cycle (r : Request) : (s.issue r).cycle = s.cycle := rfl
@[simp] theorem issue_rdata (r : Request) : (s.issue r).rdata = s.rdata := rfl
@[simp] theorem issue_draws (r : Request) : (s.issue r).draws = s.draws := rfl
@[simp] theorem issue_dataEpoch (r : Request) : (s.issue r).dataEpoch = s.dataEpoch := rfl

/-! ### `goto` -/

@[simp] theorem goto_params (p : Point) : (s.goto p).params = s.params := rfl
@[simp] theorem goto_ctrlOp (p : Point) : (s.goto p).ctrlOp = s.ctrlOp := rfl
@[simp] theorem goto_busy (p : Point) : (s.goto p).busy = s.busy := rfl
@[simp] theorem goto_done (p : Point) : (s.goto p).done = s.done := rfl
@[simp] theorem goto_wign (p : Point) : (s.goto p).wign = s.wign := rfl
@[simp] theorem goto_csst (p : Point) : (s.goto p).csst = s.csst := rfl
@[simp] theorem goto_err (p : Point) : (s.goto p).err = s.err := rfl
@[simp] theorem goto_detail (p : Point) : (s.goto p).detail = s.detail := rfl
@[simp] theorem goto_initst (p : Point) : (s.goto p).initst = s.initst := rfl
@[simp] theorem goto_cmdIdx (p : Point) : (s.goto p).cmdIdx = s.cmdIdx := rfl
@[simp] theorem goto_arg (p : Point) : (s.goto p).arg = s.arg := rfl
@[simp] theorem goto_respLen (p : Point) : (s.goto p).respLen = s.respLen := rfl
@[simp] theorem goto_crcAcc (p : Point) : (s.goto p).crcAcc = s.crcAcc := rfl
@[simp] theorem goto_acmd41cnt (p : Point) : (s.goto p).acmd41cnt = s.acmd41cnt := rfl
@[simp] theorem goto_wresp (p : Point) : (s.goto p).wresp = s.wresp := rfl
@[simp] theorem goto_resp (p : Point) : (s.goto p).resp = s.resp := rfl
@[simp] theorem goto_frame (p : Point) : (s.goto p).frame = s.frame := rfl
@[simp] theorem goto_data (p : Point) : (s.goto p).data = s.data := rfl
@[simp] theorem goto_seq (p : Point) : (s.goto p).seq = .run p := rfl
@[simp] theorem goto_lOp (p : Point) : (s.goto p).lOp = s.lOp := rfl
@[simp] theorem goto_lIdx (p : Point) : (s.goto p).lIdx = s.lIdx := rfl
@[simp] theorem goto_lArg (p : Point) : (s.goto p).lArg = s.lArg := rfl
@[simp] theorem goto_lLen (p : Point) : (s.goto p).lLen = s.lLen := rfl
@[simp] theorem goto_csOwned (p : Point) : (s.goto p).csOwned = s.csOwned := rfl
@[simp] theorem goto_wcopy (p : Point) : (s.goto p).wcopy = s.wcopy := rfl
@[simp] theorem goto_t0 (p : Point) : (s.goto p).t0 = s.t0 := rfl
@[simp] theorem goto_t0Init (p : Point) : (s.goto p).t0Init = s.t0Init := rfl
@[simp] theorem goto_req (p : Point) : (s.goto p).req = s.req := rfl
@[simp] theorem goto_wire (p : Point) : (s.goto p).wire = s.wire := rfl
@[simp] theorem goto_now (p : Point) : (s.goto p).now = s.now := rfl
@[simp] theorem goto_wraps (p : Point) : (s.goto p).wraps = s.wraps := rfl
@[simp] theorem goto_inbox (p : Point) : (s.goto p).inbox = s.inbox := rfl
@[simp] theorem goto_cycle (p : Point) : (s.goto p).cycle = s.cycle := rfl
@[simp] theorem goto_rdata (p : Point) : (s.goto p).rdata = s.rdata := rfl
@[simp] theorem goto_draws (p : Point) : (s.goto p).draws = s.draws := rfl
@[simp] theorem goto_dataEpoch (p : Point) : (s.goto p).dataEpoch = s.dataEpoch := rfl

/-! ### `draw` -/

@[simp] theorem draw_params (n : Nat) : (s.draw n).params = s.params := rfl
@[simp] theorem draw_ctrlOp (n : Nat) : (s.draw n).ctrlOp = s.ctrlOp := rfl
@[simp] theorem draw_busy (n : Nat) : (s.draw n).busy = s.busy := rfl
@[simp] theorem draw_done (n : Nat) : (s.draw n).done = s.done := rfl
@[simp] theorem draw_wign (n : Nat) : (s.draw n).wign = s.wign := rfl
@[simp] theorem draw_csst (n : Nat) : (s.draw n).csst = s.csst := rfl
@[simp] theorem draw_err (n : Nat) : (s.draw n).err = s.err := rfl
@[simp] theorem draw_detail (n : Nat) : (s.draw n).detail = s.detail := rfl
@[simp] theorem draw_initst (n : Nat) : (s.draw n).initst = s.initst := rfl
@[simp] theorem draw_cmdIdx (n : Nat) : (s.draw n).cmdIdx = s.cmdIdx := rfl
@[simp] theorem draw_arg (n : Nat) : (s.draw n).arg = s.arg := rfl
@[simp] theorem draw_respLen (n : Nat) : (s.draw n).respLen = s.respLen := rfl
@[simp] theorem draw_crcAcc (n : Nat) : (s.draw n).crcAcc = s.crcAcc := rfl
@[simp] theorem draw_acmd41cnt (n : Nat) : (s.draw n).acmd41cnt = s.acmd41cnt := rfl
@[simp] theorem draw_wresp (n : Nat) : (s.draw n).wresp = s.wresp := rfl
@[simp] theorem draw_resp (n : Nat) : (s.draw n).resp = s.resp := rfl
@[simp] theorem draw_frame (n : Nat) : (s.draw n).frame = s.frame := rfl
@[simp] theorem draw_data (n : Nat) : (s.draw n).data = s.data := rfl
@[simp] theorem draw_seq (n : Nat) : (s.draw n).seq = s.seq := rfl
@[simp] theorem draw_lOp (n : Nat) : (s.draw n).lOp = s.lOp := rfl
@[simp] theorem draw_lIdx (n : Nat) : (s.draw n).lIdx = s.lIdx := rfl
@[simp] theorem draw_lArg (n : Nat) : (s.draw n).lArg = s.lArg := rfl
@[simp] theorem draw_lLen (n : Nat) : (s.draw n).lLen = s.lLen := rfl
@[simp] theorem draw_csOwned (n : Nat) : (s.draw n).csOwned = s.csOwned := rfl
@[simp] theorem draw_wcopy (n : Nat) : (s.draw n).wcopy = s.wcopy := rfl
@[simp] theorem draw_t0 (n : Nat) : (s.draw n).t0 = s.t0 := rfl
@[simp] theorem draw_t0Init (n : Nat) : (s.draw n).t0Init = s.t0Init := rfl
@[simp] theorem draw_req (n : Nat) : (s.draw n).req = s.req := rfl
@[simp] theorem draw_wire (n : Nat) : (s.draw n).wire = s.wire := rfl
@[simp] theorem draw_now (n : Nat) : (s.draw n).now = s.now := rfl
@[simp] theorem draw_wraps (n : Nat) : (s.draw n).wraps = s.wraps := rfl
@[simp] theorem draw_inbox (n : Nat) : (s.draw n).inbox = s.inbox := rfl
@[simp] theorem draw_cycle (n : Nat) : (s.draw n).cycle = s.cycle := rfl
@[simp] theorem draw_rdata (n : Nat) : (s.draw n).rdata = s.rdata := rfl
@[simp] theorem draw_draws (n : Nat) : (s.draw n).draws = s.draws + n := rfl
@[simp] theorem draw_dataEpoch (n : Nat) : (s.draw n).dataEpoch = s.dataEpoch := rfl

/-! ### `putData` -/

@[simp] theorem putData_params (i : Nat) (bs : List Byte) :
    (s.putData i bs).params = s.params := rfl
@[simp] theorem putData_ctrlOp (i : Nat) (bs : List Byte) :
    (s.putData i bs).ctrlOp = s.ctrlOp := rfl
@[simp] theorem putData_busy (i : Nat) (bs : List Byte) : (s.putData i bs).busy = s.busy := rfl
@[simp] theorem putData_done (i : Nat) (bs : List Byte) : (s.putData i bs).done = s.done := rfl
@[simp] theorem putData_wign (i : Nat) (bs : List Byte) : (s.putData i bs).wign = s.wign := rfl
@[simp] theorem putData_csst (i : Nat) (bs : List Byte) : (s.putData i bs).csst = s.csst := rfl
@[simp] theorem putData_err (i : Nat) (bs : List Byte) : (s.putData i bs).err = s.err := rfl
@[simp] theorem putData_detail (i : Nat) (bs : List Byte) :
    (s.putData i bs).detail = s.detail := rfl
@[simp] theorem putData_initst (i : Nat) (bs : List Byte) :
    (s.putData i bs).initst = s.initst := rfl
@[simp] theorem putData_cmdIdx (i : Nat) (bs : List Byte) :
    (s.putData i bs).cmdIdx = s.cmdIdx := rfl
@[simp] theorem putData_arg (i : Nat) (bs : List Byte) : (s.putData i bs).arg = s.arg := rfl
@[simp] theorem putData_respLen (i : Nat) (bs : List Byte) :
    (s.putData i bs).respLen = s.respLen := rfl
@[simp] theorem putData_crcAcc (i : Nat) (bs : List Byte) :
    (s.putData i bs).crcAcc = s.crcAcc := rfl
@[simp] theorem putData_acmd41cnt (i : Nat) (bs : List Byte) :
    (s.putData i bs).acmd41cnt = s.acmd41cnt := rfl
@[simp] theorem putData_wresp (i : Nat) (bs : List Byte) : (s.putData i bs).wresp = s.wresp := rfl
@[simp] theorem putData_resp (i : Nat) (bs : List Byte) : (s.putData i bs).resp = s.resp := rfl
@[simp] theorem putData_frame (i : Nat) (bs : List Byte) : (s.putData i bs).frame = s.frame := rfl
@[simp] theorem putData_data (i : Nat) (bs : List Byte) :
    (s.putData i bs).data = Memory.writeBytes s.data (dataBase + i) bs := rfl
@[simp] theorem putData_seq (i : Nat) (bs : List Byte) : (s.putData i bs).seq = s.seq := rfl
@[simp] theorem putData_lOp (i : Nat) (bs : List Byte) : (s.putData i bs).lOp = s.lOp := rfl
@[simp] theorem putData_lIdx (i : Nat) (bs : List Byte) : (s.putData i bs).lIdx = s.lIdx := rfl
@[simp] theorem putData_lArg (i : Nat) (bs : List Byte) : (s.putData i bs).lArg = s.lArg := rfl
@[simp] theorem putData_lLen (i : Nat) (bs : List Byte) : (s.putData i bs).lLen = s.lLen := rfl
@[simp] theorem putData_csOwned (i : Nat) (bs : List Byte) :
    (s.putData i bs).csOwned = s.csOwned := rfl
@[simp] theorem putData_wcopy (i : Nat) (bs : List Byte) : (s.putData i bs).wcopy = s.wcopy := rfl
@[simp] theorem putData_t0 (i : Nat) (bs : List Byte) : (s.putData i bs).t0 = s.t0 := rfl
@[simp] theorem putData_t0Init (i : Nat) (bs : List Byte) :
    (s.putData i bs).t0Init = s.t0Init := rfl
@[simp] theorem putData_req (i : Nat) (bs : List Byte) : (s.putData i bs).req = s.req := rfl
@[simp] theorem putData_wire (i : Nat) (bs : List Byte) : (s.putData i bs).wire = s.wire := rfl
@[simp] theorem putData_now (i : Nat) (bs : List Byte) : (s.putData i bs).now = s.now := rfl
@[simp] theorem putData_wraps (i : Nat) (bs : List Byte) : (s.putData i bs).wraps = s.wraps := rfl
@[simp] theorem putData_inbox (i : Nat) (bs : List Byte) : (s.putData i bs).inbox = s.inbox := rfl
@[simp] theorem putData_cycle (i : Nat) (bs : List Byte) : (s.putData i bs).cycle = s.cycle := rfl
@[simp] theorem putData_rdata (i : Nat) (bs : List Byte) : (s.putData i bs).rdata = s.rdata := rfl
@[simp] theorem putData_draws (i : Nat) (bs : List Byte) : (s.putData i bs).draws = s.draws := rfl
@[simp] theorem putData_dataEpoch (i : Nat) (bs : List Byte) :
    (s.putData i bs).dataEpoch = s.dataEpoch := rfl

/-! ### `putResp` -/

@[simp] theorem putResp_params (i : Nat) (bs : List Byte) :
    (s.putResp i bs).params = s.params := rfl
@[simp] theorem putResp_ctrlOp (i : Nat) (bs : List Byte) :
    (s.putResp i bs).ctrlOp = s.ctrlOp := rfl
@[simp] theorem putResp_busy (i : Nat) (bs : List Byte) : (s.putResp i bs).busy = s.busy := rfl
@[simp] theorem putResp_done (i : Nat) (bs : List Byte) : (s.putResp i bs).done = s.done := rfl
@[simp] theorem putResp_wign (i : Nat) (bs : List Byte) : (s.putResp i bs).wign = s.wign := rfl
@[simp] theorem putResp_csst (i : Nat) (bs : List Byte) : (s.putResp i bs).csst = s.csst := rfl
@[simp] theorem putResp_err (i : Nat) (bs : List Byte) : (s.putResp i bs).err = s.err := rfl
@[simp] theorem putResp_detail (i : Nat) (bs : List Byte) :
    (s.putResp i bs).detail = s.detail := rfl
@[simp] theorem putResp_initst (i : Nat) (bs : List Byte) :
    (s.putResp i bs).initst = s.initst := rfl
@[simp] theorem putResp_cmdIdx (i : Nat) (bs : List Byte) :
    (s.putResp i bs).cmdIdx = s.cmdIdx := rfl
@[simp] theorem putResp_arg (i : Nat) (bs : List Byte) : (s.putResp i bs).arg = s.arg := rfl
@[simp] theorem putResp_respLen (i : Nat) (bs : List Byte) :
    (s.putResp i bs).respLen = s.respLen := rfl
@[simp] theorem putResp_crcAcc (i : Nat) (bs : List Byte) :
    (s.putResp i bs).crcAcc = s.crcAcc := rfl
@[simp] theorem putResp_acmd41cnt (i : Nat) (bs : List Byte) :
    (s.putResp i bs).acmd41cnt = s.acmd41cnt := rfl
@[simp] theorem putResp_wresp (i : Nat) (bs : List Byte) : (s.putResp i bs).wresp = s.wresp := rfl
@[simp] theorem putResp_resp (i : Nat) (bs : List Byte) :
    (s.putResp i bs).resp = putAt s.resp i bs := rfl
@[simp] theorem putResp_frame (i : Nat) (bs : List Byte) : (s.putResp i bs).frame = s.frame := rfl
@[simp] theorem putResp_data (i : Nat) (bs : List Byte) : (s.putResp i bs).data = s.data := rfl
@[simp] theorem putResp_seq (i : Nat) (bs : List Byte) : (s.putResp i bs).seq = s.seq := rfl
@[simp] theorem putResp_lOp (i : Nat) (bs : List Byte) : (s.putResp i bs).lOp = s.lOp := rfl
@[simp] theorem putResp_lIdx (i : Nat) (bs : List Byte) : (s.putResp i bs).lIdx = s.lIdx := rfl
@[simp] theorem putResp_lArg (i : Nat) (bs : List Byte) : (s.putResp i bs).lArg = s.lArg := rfl
@[simp] theorem putResp_lLen (i : Nat) (bs : List Byte) : (s.putResp i bs).lLen = s.lLen := rfl
@[simp] theorem putResp_csOwned (i : Nat) (bs : List Byte) :
    (s.putResp i bs).csOwned = s.csOwned := rfl
@[simp] theorem putResp_wcopy (i : Nat) (bs : List Byte) : (s.putResp i bs).wcopy = s.wcopy := rfl
@[simp] theorem putResp_t0 (i : Nat) (bs : List Byte) : (s.putResp i bs).t0 = s.t0 := rfl
@[simp] theorem putResp_t0Init (i : Nat) (bs : List Byte) :
    (s.putResp i bs).t0Init = s.t0Init := rfl
@[simp] theorem putResp_req (i : Nat) (bs : List Byte) : (s.putResp i bs).req = s.req := rfl
@[simp] theorem putResp_wire (i : Nat) (bs : List Byte) : (s.putResp i bs).wire = s.wire := rfl
@[simp] theorem putResp_now (i : Nat) (bs : List Byte) : (s.putResp i bs).now = s.now := rfl
@[simp] theorem putResp_wraps (i : Nat) (bs : List Byte) : (s.putResp i bs).wraps = s.wraps := rfl
@[simp] theorem putResp_inbox (i : Nat) (bs : List Byte) : (s.putResp i bs).inbox = s.inbox := rfl
@[simp] theorem putResp_cycle (i : Nat) (bs : List Byte) : (s.putResp i bs).cycle = s.cycle := rfl
@[simp] theorem putResp_rdata (i : Nat) (bs : List Byte) : (s.putResp i bs).rdata = s.rdata := rfl
@[simp] theorem putResp_draws (i : Nat) (bs : List Byte) : (s.putResp i bs).draws = s.draws := rfl
@[simp] theorem putResp_dataEpoch (i : Nat) (bs : List Byte) :
    (s.putResp i bs).dataEpoch = s.dataEpoch := rfl

/-! ### `dropWrite` -/

@[simp] theorem dropWrite_params : (s.dropWrite).params = s.params := rfl
@[simp] theorem dropWrite_ctrlOp : (s.dropWrite).ctrlOp = s.ctrlOp := rfl
@[simp] theorem dropWrite_busy : (s.dropWrite).busy = s.busy := rfl
@[simp] theorem dropWrite_done : (s.dropWrite).done = s.done := rfl
@[simp] theorem dropWrite_wign : (s.dropWrite).wign = true := rfl
@[simp] theorem dropWrite_csst : (s.dropWrite).csst = s.csst := rfl
@[simp] theorem dropWrite_err : (s.dropWrite).err = s.err := rfl
@[simp] theorem dropWrite_detail : (s.dropWrite).detail = s.detail := rfl
@[simp] theorem dropWrite_initst : (s.dropWrite).initst = s.initst := rfl
@[simp] theorem dropWrite_cmdIdx : (s.dropWrite).cmdIdx = s.cmdIdx := rfl
@[simp] theorem dropWrite_arg : (s.dropWrite).arg = s.arg := rfl
@[simp] theorem dropWrite_respLen : (s.dropWrite).respLen = s.respLen := rfl
@[simp] theorem dropWrite_crcAcc : (s.dropWrite).crcAcc = s.crcAcc := rfl
@[simp] theorem dropWrite_acmd41cnt : (s.dropWrite).acmd41cnt = s.acmd41cnt := rfl
@[simp] theorem dropWrite_wresp : (s.dropWrite).wresp = s.wresp := rfl
@[simp] theorem dropWrite_resp : (s.dropWrite).resp = s.resp := rfl
@[simp] theorem dropWrite_frame : (s.dropWrite).frame = s.frame := rfl
@[simp] theorem dropWrite_data : (s.dropWrite).data = s.data := rfl
@[simp] theorem dropWrite_seq : (s.dropWrite).seq = s.seq := rfl
@[simp] theorem dropWrite_lOp : (s.dropWrite).lOp = s.lOp := rfl
@[simp] theorem dropWrite_lIdx : (s.dropWrite).lIdx = s.lIdx := rfl
@[simp] theorem dropWrite_lArg : (s.dropWrite).lArg = s.lArg := rfl
@[simp] theorem dropWrite_lLen : (s.dropWrite).lLen = s.lLen := rfl
@[simp] theorem dropWrite_csOwned : (s.dropWrite).csOwned = s.csOwned := rfl
@[simp] theorem dropWrite_wcopy : (s.dropWrite).wcopy = s.wcopy := rfl
@[simp] theorem dropWrite_t0 : (s.dropWrite).t0 = s.t0 := rfl
@[simp] theorem dropWrite_t0Init : (s.dropWrite).t0Init = s.t0Init := rfl
@[simp] theorem dropWrite_req : (s.dropWrite).req = s.req := rfl
@[simp] theorem dropWrite_wire : (s.dropWrite).wire = s.wire := rfl
@[simp] theorem dropWrite_now : (s.dropWrite).now = s.now := rfl
@[simp] theorem dropWrite_wraps : (s.dropWrite).wraps = s.wraps := rfl
@[simp] theorem dropWrite_inbox : (s.dropWrite).inbox = s.inbox := rfl
@[simp] theorem dropWrite_cycle : (s.dropWrite).cycle = s.cycle := rfl
@[simp] theorem dropWrite_rdata : (s.dropWrite).rdata = s.rdata := rfl
@[simp] theorem dropWrite_draws : (s.dropWrite).draws = s.draws := rfl
@[simp] theorem dropWrite_dataEpoch : (s.dropWrite).dataEpoch = s.dataEpoch := rfl

/-! ### `csAssertAnswered` -/

@[simp] theorem csAssertAnswered_params (ok : Bool) :
    (s.csAssertAnswered ok).params = s.params := rfl
@[simp] theorem csAssertAnswered_ctrlOp (ok : Bool) :
    (s.csAssertAnswered ok).ctrlOp = s.ctrlOp := rfl
@[simp] theorem csAssertAnswered_busy (ok : Bool) : (s.csAssertAnswered ok).busy = s.busy := rfl
@[simp] theorem csAssertAnswered_done (ok : Bool) : (s.csAssertAnswered ok).done = s.done := rfl
@[simp] theorem csAssertAnswered_wign (ok : Bool) : (s.csAssertAnswered ok).wign = s.wign := rfl
@[simp] theorem csAssertAnswered_csst (ok : Bool) :
    (s.csAssertAnswered ok).csst = if ok then .asserted else .unknown := rfl
@[simp] theorem csAssertAnswered_err (ok : Bool) : (s.csAssertAnswered ok).err = s.err := rfl
@[simp] theorem csAssertAnswered_detail (ok : Bool) :
    (s.csAssertAnswered ok).detail = s.detail := rfl
@[simp] theorem csAssertAnswered_initst (ok : Bool) :
    (s.csAssertAnswered ok).initst = s.initst := rfl
@[simp] theorem csAssertAnswered_cmdIdx (ok : Bool) :
    (s.csAssertAnswered ok).cmdIdx = s.cmdIdx := rfl
@[simp] theorem csAssertAnswered_arg (ok : Bool) : (s.csAssertAnswered ok).arg = s.arg := rfl
@[simp] theorem csAssertAnswered_respLen (ok : Bool) :
    (s.csAssertAnswered ok).respLen = s.respLen := rfl
@[simp] theorem csAssertAnswered_crcAcc (ok : Bool) :
    (s.csAssertAnswered ok).crcAcc = s.crcAcc := rfl
@[simp] theorem csAssertAnswered_acmd41cnt (ok : Bool) :
    (s.csAssertAnswered ok).acmd41cnt = s.acmd41cnt := rfl
@[simp] theorem csAssertAnswered_wresp (ok : Bool) : (s.csAssertAnswered ok).wresp = s.wresp := rfl
@[simp] theorem csAssertAnswered_resp (ok : Bool) : (s.csAssertAnswered ok).resp = s.resp := rfl
@[simp] theorem csAssertAnswered_frame (ok : Bool) : (s.csAssertAnswered ok).frame = s.frame := rfl
@[simp] theorem csAssertAnswered_data (ok : Bool) : (s.csAssertAnswered ok).data = s.data := rfl
@[simp] theorem csAssertAnswered_seq (ok : Bool) : (s.csAssertAnswered ok).seq = s.seq := rfl
@[simp] theorem csAssertAnswered_lOp (ok : Bool) : (s.csAssertAnswered ok).lOp = s.lOp := rfl
@[simp] theorem csAssertAnswered_lIdx (ok : Bool) : (s.csAssertAnswered ok).lIdx = s.lIdx := rfl
@[simp] theorem csAssertAnswered_lArg (ok : Bool) : (s.csAssertAnswered ok).lArg = s.lArg := rfl
@[simp] theorem csAssertAnswered_lLen (ok : Bool) : (s.csAssertAnswered ok).lLen = s.lLen := rfl
@[simp] theorem csAssertAnswered_csOwned (ok : Bool) :
    (s.csAssertAnswered ok).csOwned = s.csOwned := rfl
@[simp] theorem csAssertAnswered_wcopy (ok : Bool) : (s.csAssertAnswered ok).wcopy = s.wcopy := rfl
@[simp] theorem csAssertAnswered_t0 (ok : Bool) : (s.csAssertAnswered ok).t0 = s.t0 := rfl
@[simp] theorem csAssertAnswered_t0Init (ok : Bool) :
    (s.csAssertAnswered ok).t0Init = s.t0Init := rfl
@[simp] theorem csAssertAnswered_req (ok : Bool) : (s.csAssertAnswered ok).req = s.req := rfl
@[simp] theorem csAssertAnswered_wire (ok : Bool) : (s.csAssertAnswered ok).wire = s.wire := rfl
@[simp] theorem csAssertAnswered_now (ok : Bool) : (s.csAssertAnswered ok).now = s.now := rfl
@[simp] theorem csAssertAnswered_wraps (ok : Bool) : (s.csAssertAnswered ok).wraps = s.wraps := rfl
@[simp] theorem csAssertAnswered_inbox (ok : Bool) : (s.csAssertAnswered ok).inbox = s.inbox := rfl
@[simp] theorem csAssertAnswered_cycle (ok : Bool) : (s.csAssertAnswered ok).cycle = s.cycle := rfl
@[simp] theorem csAssertAnswered_rdata (ok : Bool) : (s.csAssertAnswered ok).rdata = s.rdata := rfl
@[simp] theorem csAssertAnswered_draws (ok : Bool) : (s.csAssertAnswered ok).draws = s.draws := rfl
@[simp] theorem csAssertAnswered_dataEpoch (ok : Bool) :
    (s.csAssertAnswered ok).dataEpoch = s.dataEpoch := rfl

/-! ### `csDeassertAnswered` -/

@[simp] theorem csDeassertAnswered_params (ok : Bool) :
    (s.csDeassertAnswered ok).params = s.params := rfl
@[simp] theorem csDeassertAnswered_ctrlOp (ok : Bool) :
    (s.csDeassertAnswered ok).ctrlOp = s.ctrlOp := rfl
@[simp] theorem csDeassertAnswered_busy (ok : Bool) : (s.csDeassertAnswered ok).busy = s.busy := rfl
@[simp] theorem csDeassertAnswered_done (ok : Bool) : (s.csDeassertAnswered ok).done = s.done := rfl
@[simp] theorem csDeassertAnswered_wign (ok : Bool) : (s.csDeassertAnswered ok).wign = s.wign := rfl
@[simp] theorem csDeassertAnswered_csst (ok : Bool) :
    (s.csDeassertAnswered ok).csst = if ok then .deasserted else .unknown := rfl
@[simp] theorem csDeassertAnswered_err (ok : Bool) : (s.csDeassertAnswered ok).err = s.err := rfl
@[simp] theorem csDeassertAnswered_detail (ok : Bool) :
    (s.csDeassertAnswered ok).detail = s.detail := rfl
@[simp] theorem csDeassertAnswered_initst (ok : Bool) :
    (s.csDeassertAnswered ok).initst = s.initst := rfl
@[simp] theorem csDeassertAnswered_cmdIdx (ok : Bool) :
    (s.csDeassertAnswered ok).cmdIdx = s.cmdIdx := rfl
@[simp] theorem csDeassertAnswered_arg (ok : Bool) : (s.csDeassertAnswered ok).arg = s.arg := rfl
@[simp] theorem csDeassertAnswered_respLen (ok : Bool) :
    (s.csDeassertAnswered ok).respLen = s.respLen := rfl
@[simp] theorem csDeassertAnswered_crcAcc (ok : Bool) :
    (s.csDeassertAnswered ok).crcAcc = s.crcAcc := rfl
@[simp] theorem csDeassertAnswered_acmd41cnt (ok : Bool) :
    (s.csDeassertAnswered ok).acmd41cnt = s.acmd41cnt := rfl
@[simp] theorem csDeassertAnswered_wresp (ok : Bool) :
    (s.csDeassertAnswered ok).wresp = s.wresp := rfl
@[simp] theorem csDeassertAnswered_resp (ok : Bool) : (s.csDeassertAnswered ok).resp = s.resp := rfl
@[simp] theorem csDeassertAnswered_frame (ok : Bool) :
    (s.csDeassertAnswered ok).frame = s.frame := rfl
@[simp] theorem csDeassertAnswered_data (ok : Bool) : (s.csDeassertAnswered ok).data = s.data := rfl
@[simp] theorem csDeassertAnswered_seq (ok : Bool) : (s.csDeassertAnswered ok).seq = s.seq := rfl
@[simp] theorem csDeassertAnswered_lOp (ok : Bool) : (s.csDeassertAnswered ok).lOp = s.lOp := rfl
@[simp] theorem csDeassertAnswered_lIdx (ok : Bool) : (s.csDeassertAnswered ok).lIdx = s.lIdx := rfl
@[simp] theorem csDeassertAnswered_lArg (ok : Bool) : (s.csDeassertAnswered ok).lArg = s.lArg := rfl
@[simp] theorem csDeassertAnswered_lLen (ok : Bool) : (s.csDeassertAnswered ok).lLen = s.lLen := rfl
@[simp] theorem csDeassertAnswered_csOwned (ok : Bool) :
    (s.csDeassertAnswered ok).csOwned = s.csOwned := rfl
@[simp] theorem csDeassertAnswered_wcopy (ok : Bool) :
    (s.csDeassertAnswered ok).wcopy = s.wcopy := rfl
@[simp] theorem csDeassertAnswered_t0 (ok : Bool) : (s.csDeassertAnswered ok).t0 = s.t0 := rfl
@[simp] theorem csDeassertAnswered_t0Init (ok : Bool) :
    (s.csDeassertAnswered ok).t0Init = s.t0Init := rfl
@[simp] theorem csDeassertAnswered_req (ok : Bool) : (s.csDeassertAnswered ok).req = s.req := rfl
@[simp] theorem csDeassertAnswered_wire (ok : Bool) : (s.csDeassertAnswered ok).wire = s.wire := rfl
@[simp] theorem csDeassertAnswered_now (ok : Bool) : (s.csDeassertAnswered ok).now = s.now := rfl
@[simp] theorem csDeassertAnswered_wraps (ok : Bool) : (s.csDeassertAnswered ok).wraps = s.wraps := rfl
@[simp] theorem csDeassertAnswered_inbox (ok : Bool) :
    (s.csDeassertAnswered ok).inbox = s.inbox := rfl
@[simp] theorem csDeassertAnswered_cycle (ok : Bool) :
    (s.csDeassertAnswered ok).cycle = s.cycle := rfl
@[simp] theorem csDeassertAnswered_rdata (ok : Bool) :
    (s.csDeassertAnswered ok).rdata = s.rdata := rfl
@[simp] theorem csDeassertAnswered_draws (ok : Bool) :
    (s.csDeassertAnswered ok).draws = s.draws := rfl
@[simp] theorem csDeassertAnswered_dataEpoch (ok : Bool) :
    (s.csDeassertAnswered ok).dataEpoch = s.dataEpoch := rfl

/-! ### `endOp` -/

@[simp] theorem endOp_params (d : Detail) : (s.endOp d).params = s.params := rfl
@[simp] theorem endOp_ctrlOp (d : Detail) : (s.endOp d).ctrlOp = s.ctrlOp := rfl
@[simp] theorem endOp_busy (d : Detail) : (s.endOp d).busy = false := rfl
@[simp] theorem endOp_done (d : Detail) : (s.endOp d).done = true := rfl
@[simp] theorem endOp_wign (d : Detail) : (s.endOp d).wign = s.wign := rfl
@[simp] theorem endOp_csst (d : Detail) : (s.endOp d).csst = s.csst := rfl
@[simp] theorem endOp_err (d : Detail) : (s.endOp d).err = d.kind := rfl
@[simp] theorem endOp_detail (d : Detail) : (s.endOp d).detail = d := rfl
@[simp] theorem endOp_initst (d : Detail) : (s.endOp d).initst = s.initst := rfl
@[simp] theorem endOp_cmdIdx (d : Detail) : (s.endOp d).cmdIdx = s.cmdIdx := rfl
@[simp] theorem endOp_arg (d : Detail) : (s.endOp d).arg = s.arg := rfl
@[simp] theorem endOp_respLen (d : Detail) : (s.endOp d).respLen = s.respLen := rfl
@[simp] theorem endOp_crcAcc (d : Detail) : (s.endOp d).crcAcc = s.crcAcc := rfl
@[simp] theorem endOp_acmd41cnt (d : Detail) : (s.endOp d).acmd41cnt = s.acmd41cnt := rfl
@[simp] theorem endOp_wresp (d : Detail) : (s.endOp d).wresp = s.wresp := rfl
@[simp] theorem endOp_resp (d : Detail) : (s.endOp d).resp = s.resp := rfl
@[simp] theorem endOp_frame (d : Detail) : (s.endOp d).frame = s.frame := rfl
@[simp] theorem endOp_data (d : Detail) : (s.endOp d).data = s.data := rfl
@[simp] theorem endOp_seq (d : Detail) : (s.endOp d).seq = .idle := rfl
@[simp] theorem endOp_lOp (d : Detail) : (s.endOp d).lOp = s.lOp := rfl
@[simp] theorem endOp_lIdx (d : Detail) : (s.endOp d).lIdx = s.lIdx := rfl
@[simp] theorem endOp_lArg (d : Detail) : (s.endOp d).lArg = s.lArg := rfl
@[simp] theorem endOp_lLen (d : Detail) : (s.endOp d).lLen = s.lLen := rfl
@[simp] theorem endOp_csOwned (d : Detail) : (s.endOp d).csOwned = false := rfl
@[simp] theorem endOp_wcopy (d : Detail) : (s.endOp d).wcopy = s.wcopy := rfl
@[simp] theorem endOp_t0 (d : Detail) : (s.endOp d).t0 = s.t0 := rfl
@[simp] theorem endOp_t0Init (d : Detail) : (s.endOp d).t0Init = s.t0Init := rfl
@[simp] theorem endOp_req (d : Detail) : (s.endOp d).req = s.req := rfl
@[simp] theorem endOp_wire (d : Detail) : (s.endOp d).wire = s.wire := rfl
@[simp] theorem endOp_now (d : Detail) : (s.endOp d).now = s.now := rfl
@[simp] theorem endOp_wraps (d : Detail) : (s.endOp d).wraps = s.wraps := rfl
@[simp] theorem endOp_inbox (d : Detail) : (s.endOp d).inbox = s.inbox := rfl
@[simp] theorem endOp_cycle (d : Detail) : (s.endOp d).cycle = s.cycle := rfl
@[simp] theorem endOp_rdata (d : Detail) : (s.endOp d).rdata = s.rdata := rfl
@[simp] theorem endOp_draws (d : Detail) : (s.endOp d).draws = s.draws := rfl
@[simp] theorem endOp_dataEpoch (d : Detail) : (s.endOp d).dataEpoch = s.dataEpoch := rfl

/-! ### `latch` -/

@[simp] theorem latch_params (op : BitVec 3) : (s.latch op).params = s.params := rfl
@[simp] theorem latch_ctrlOp (op : BitVec 3) : (s.latch op).ctrlOp = op := rfl
@[simp] theorem latch_busy (op : BitVec 3) : (s.latch op).busy = s.busy := rfl
@[simp] theorem latch_done (op : BitVec 3) : (s.latch op).done = false := rfl
@[simp] theorem latch_wign (op : BitVec 3) : (s.latch op).wign = false := rfl
@[simp] theorem latch_csst (op : BitVec 3) : (s.latch op).csst = s.csst := rfl
@[simp] theorem latch_err (op : BitVec 3) : (s.latch op).err = .none := rfl
@[simp] theorem latch_detail (op : BitVec 3) : (s.latch op).detail = .none := rfl
@[simp] theorem latch_initst (op : BitVec 3) : (s.latch op).initst = s.initst := rfl
@[simp] theorem latch_cmdIdx (op : BitVec 3) : (s.latch op).cmdIdx = s.cmdIdx := rfl
@[simp] theorem latch_arg (op : BitVec 3) : (s.latch op).arg = s.arg := rfl
@[simp] theorem latch_respLen (op : BitVec 3) : (s.latch op).respLen = s.respLen := rfl
@[simp] theorem latch_crcAcc (op : BitVec 3) : (s.latch op).crcAcc = s.crcAcc := rfl
@[simp] theorem latch_acmd41cnt (op : BitVec 3) : (s.latch op).acmd41cnt = s.acmd41cnt := rfl
@[simp] theorem latch_wresp (op : BitVec 3) : (s.latch op).wresp = s.wresp := rfl
@[simp] theorem latch_resp (op : BitVec 3) : (s.latch op).resp = s.resp := rfl
@[simp] theorem latch_frame (op : BitVec 3) : (s.latch op).frame = s.frame := rfl
@[simp] theorem latch_data (op : BitVec 3) : (s.latch op).data = s.data := rfl
@[simp] theorem latch_seq (op : BitVec 3) : (s.latch op).seq = s.seq := rfl
@[simp] theorem latch_lOp (op : BitVec 3) : (s.latch op).lOp = op := rfl
@[simp] theorem latch_lIdx (op : BitVec 3) : (s.latch op).lIdx = s.cmdIdx := rfl
@[simp] theorem latch_lArg (op : BitVec 3) : (s.latch op).lArg = s.arg := rfl
@[simp] theorem latch_lLen (op : BitVec 3) : (s.latch op).lLen = s.respLen := rfl
@[simp] theorem latch_csOwned (op : BitVec 3) : (s.latch op).csOwned = false := rfl
@[simp] theorem latch_wcopy (op : BitVec 3) : (s.latch op).wcopy = s.wcopy := rfl
@[simp] theorem latch_t0 (op : BitVec 3) : (s.latch op).t0 = s.t0 := rfl
@[simp] theorem latch_t0Init (op : BitVec 3) : (s.latch op).t0Init = s.t0Init := rfl
@[simp] theorem latch_req (op : BitVec 3) : (s.latch op).req = s.req := rfl
@[simp] theorem latch_wire (op : BitVec 3) : (s.latch op).wire = s.wire := rfl
@[simp] theorem latch_now (op : BitVec 3) : (s.latch op).now = s.now := rfl
@[simp] theorem latch_wraps (op : BitVec 3) : (s.latch op).wraps = s.wraps := rfl
@[simp] theorem latch_inbox (op : BitVec 3) : (s.latch op).inbox = s.inbox := rfl
@[simp] theorem latch_cycle (op : BitVec 3) : (s.latch op).cycle = s.cycle := rfl
@[simp] theorem latch_rdata (op : BitVec 3) : (s.latch op).rdata = s.rdata := rfl
@[simp] theorem latch_draws (op : BitVec 3) : (s.latch op).draws = s.draws := rfl
@[simp] theorem latch_dataEpoch (op : BitVec 3) : (s.latch op).dataEpoch = s.dataEpoch := rfl

/-! ### `launch` -/

@[simp] theorem launch_params (op : Op) : (s.launch op).params = s.params := rfl
@[simp] theorem launch_ctrlOp (op : Op) : (s.launch op).ctrlOp = s.ctrlOp := rfl
@[simp] theorem launch_busy (op : Op) : (s.launch op).busy = true := rfl
@[simp] theorem launch_done (op : Op) : (s.launch op).done = s.done := rfl
@[simp] theorem launch_wign (op : Op) : (s.launch op).wign = s.wign := rfl
@[simp] theorem launch_csst (op : Op) : (s.launch op).csst = s.csst := rfl
@[simp] theorem launch_err (op : Op) : (s.launch op).err = s.err := rfl
@[simp] theorem launch_detail (op : Op) : (s.launch op).detail = s.detail := rfl
@[simp] theorem launch_initst (op : Op) : (s.launch op).initst = s.initst := rfl
@[simp] theorem launch_cmdIdx (op : Op) : (s.launch op).cmdIdx = s.cmdIdx := rfl
@[simp] theorem launch_arg (op : Op) : (s.launch op).arg = s.arg := rfl
@[simp] theorem launch_respLen (op : Op) : (s.launch op).respLen = s.respLen := rfl
@[simp] theorem launch_crcAcc (op : Op) : (s.launch op).crcAcc = s.crcAcc := rfl
@[simp] theorem launch_acmd41cnt (op : Op) : (s.launch op).acmd41cnt = s.acmd41cnt := rfl
@[simp] theorem launch_wresp (op : Op) : (s.launch op).wresp = s.wresp := rfl
@[simp] theorem launch_resp (op : Op) : (s.launch op).resp = s.resp := rfl
@[simp] theorem launch_frame (op : Op) : (s.launch op).frame = s.frame := rfl
@[simp] theorem launch_data (op : Op) : (s.launch op).data = s.data := rfl
@[simp] theorem launch_seq (op : Op) : (s.launch op).seq = .run (.start op) := rfl
@[simp] theorem launch_lOp (op : Op) : (s.launch op).lOp = s.lOp := rfl
@[simp] theorem launch_lIdx (op : Op) : (s.launch op).lIdx = s.lIdx := rfl
@[simp] theorem launch_lArg (op : Op) : (s.launch op).lArg = s.lArg := rfl
@[simp] theorem launch_lLen (op : Op) : (s.launch op).lLen = s.lLen := rfl
@[simp] theorem launch_csOwned (op : Op) : (s.launch op).csOwned = s.csOwned := rfl
@[simp] theorem launch_wcopy (op : Op) : (s.launch op).wcopy = s.wcopy := rfl
@[simp] theorem launch_t0 (op : Op) : (s.launch op).t0 = s.t0 := rfl
@[simp] theorem launch_t0Init (op : Op) : (s.launch op).t0Init = s.t0Init := rfl
@[simp] theorem launch_req (op : Op) : (s.launch op).req = s.req := rfl
@[simp] theorem launch_wire (op : Op) : (s.launch op).wire = s.wire := rfl
@[simp] theorem launch_now (op : Op) : (s.launch op).now = s.now := rfl
@[simp] theorem launch_wraps (op : Op) : (s.launch op).wraps = s.wraps := rfl
@[simp] theorem launch_inbox (op : Op) : (s.launch op).inbox = s.inbox := rfl
@[simp] theorem launch_cycle (op : Op) : (s.launch op).cycle = s.cycle := rfl
@[simp] theorem launch_rdata (op : Op) : (s.launch op).rdata = s.rdata := rfl
@[simp] theorem launch_draws (op : Op) : (s.launch op).draws = s.draws := rfl
@[simp] theorem launch_dataEpoch (op : Op) : (s.launch op).dataEpoch = s.dataEpoch := rfl

/-! ### `setTime` -/

@[simp] theorem setTime_params (t : Nat) : (s.setTime t).params = s.params := rfl
@[simp] theorem setTime_ctrlOp (t : Nat) : (s.setTime t).ctrlOp = s.ctrlOp := rfl
@[simp] theorem setTime_busy (t : Nat) : (s.setTime t).busy = s.busy := rfl
@[simp] theorem setTime_done (t : Nat) : (s.setTime t).done = s.done := rfl
@[simp] theorem setTime_wign (t : Nat) : (s.setTime t).wign = s.wign := rfl
@[simp] theorem setTime_csst (t : Nat) : (s.setTime t).csst = s.csst := rfl
@[simp] theorem setTime_err (t : Nat) : (s.setTime t).err = s.err := rfl
@[simp] theorem setTime_detail (t : Nat) : (s.setTime t).detail = s.detail := rfl
@[simp] theorem setTime_initst (t : Nat) : (s.setTime t).initst = s.initst := rfl
@[simp] theorem setTime_cmdIdx (t : Nat) : (s.setTime t).cmdIdx = s.cmdIdx := rfl
@[simp] theorem setTime_arg (t : Nat) : (s.setTime t).arg = s.arg := rfl
@[simp] theorem setTime_respLen (t : Nat) : (s.setTime t).respLen = s.respLen := rfl
@[simp] theorem setTime_crcAcc (t : Nat) : (s.setTime t).crcAcc = s.crcAcc := rfl
@[simp] theorem setTime_acmd41cnt (t : Nat) : (s.setTime t).acmd41cnt = s.acmd41cnt := rfl
@[simp] theorem setTime_wresp (t : Nat) : (s.setTime t).wresp = s.wresp := rfl
@[simp] theorem setTime_resp (t : Nat) : (s.setTime t).resp = s.resp := rfl
@[simp] theorem setTime_frame (t : Nat) : (s.setTime t).frame = s.frame := rfl
@[simp] theorem setTime_data (t : Nat) : (s.setTime t).data = s.data := rfl
@[simp] theorem setTime_seq (t : Nat) : (s.setTime t).seq = s.seq := rfl
@[simp] theorem setTime_lOp (t : Nat) : (s.setTime t).lOp = s.lOp := rfl
@[simp] theorem setTime_lIdx (t : Nat) : (s.setTime t).lIdx = s.lIdx := rfl
@[simp] theorem setTime_lArg (t : Nat) : (s.setTime t).lArg = s.lArg := rfl
@[simp] theorem setTime_lLen (t : Nat) : (s.setTime t).lLen = s.lLen := rfl
@[simp] theorem setTime_csOwned (t : Nat) : (s.setTime t).csOwned = s.csOwned := rfl
@[simp] theorem setTime_wcopy (t : Nat) : (s.setTime t).wcopy = s.wcopy := rfl
@[simp] theorem setTime_t0 (t : Nat) : (s.setTime t).t0 = s.t0 := rfl
@[simp] theorem setTime_t0Init (t : Nat) : (s.setTime t).t0Init = s.t0Init := rfl
@[simp] theorem setTime_req (t : Nat) : (s.setTime t).req = s.req := rfl
@[simp] theorem setTime_wire (t : Nat) : (s.setTime t).wire = s.wire := rfl
@[simp] theorem setTime_now (t : Nat) : (s.setTime t).now = t % 2 ^ s.params.timeWidth := rfl
@[simp] theorem setTime_wraps (t : Nat) : (s.setTime t).wraps = t / 2 ^ s.params.timeWidth := rfl
@[simp] theorem setTime_inbox (t : Nat) : (s.setTime t).inbox = s.inbox := rfl
@[simp] theorem setTime_cycle (t : Nat) : (s.setTime t).cycle = s.cycle := rfl
@[simp] theorem setTime_rdata (t : Nat) : (s.setTime t).rdata = s.rdata := rfl
@[simp] theorem setTime_draws (t : Nat) : (s.setTime t).draws = s.draws := rfl
@[simp] theorem setTime_dataEpoch (t : Nat) : (s.setTime t).dataEpoch = s.dataEpoch := rfl

/-! ### `beginCsOn` -/

@[simp] theorem beginCsOn_params (b : Exchange) : (s.beginCsOn b).params = s.params := rfl
@[simp] theorem beginCsOn_ctrlOp (b : Exchange) : (s.beginCsOn b).ctrlOp = s.ctrlOp := rfl
@[simp] theorem beginCsOn_busy (b : Exchange) : (s.beginCsOn b).busy = s.busy := rfl
@[simp] theorem beginCsOn_done (b : Exchange) : (s.beginCsOn b).done = s.done := rfl
@[simp] theorem beginCsOn_wign (b : Exchange) : (s.beginCsOn b).wign = s.wign := rfl
@[simp] theorem beginCsOn_csst (b : Exchange) : (s.beginCsOn b).csst = s.csst := rfl
@[simp] theorem beginCsOn_err (b : Exchange) : (s.beginCsOn b).err = s.err := rfl
@[simp] theorem beginCsOn_detail (b : Exchange) : (s.beginCsOn b).detail = s.detail := rfl
@[simp] theorem beginCsOn_initst (b : Exchange) : (s.beginCsOn b).initst = s.initst := rfl
@[simp] theorem beginCsOn_cmdIdx (b : Exchange) : (s.beginCsOn b).cmdIdx = s.cmdIdx := rfl
@[simp] theorem beginCsOn_arg (b : Exchange) : (s.beginCsOn b).arg = s.arg := rfl
@[simp] theorem beginCsOn_respLen (b : Exchange) : (s.beginCsOn b).respLen = s.respLen := rfl
@[simp] theorem beginCsOn_crcAcc (b : Exchange) : (s.beginCsOn b).crcAcc = s.crcAcc := rfl
@[simp] theorem beginCsOn_acmd41cnt (b : Exchange) : (s.beginCsOn b).acmd41cnt = s.acmd41cnt := rfl
@[simp] theorem beginCsOn_wresp (b : Exchange) : (s.beginCsOn b).wresp = s.wresp := rfl
@[simp] theorem beginCsOn_resp (b : Exchange) : (s.beginCsOn b).resp = s.resp := rfl
@[simp] theorem beginCsOn_frame (b : Exchange) : (s.beginCsOn b).frame = s.frame := rfl
@[simp] theorem beginCsOn_data (b : Exchange) : (s.beginCsOn b).data = s.data := rfl
@[simp] theorem beginCsOn_seq (b : Exchange) : (s.beginCsOn b).seq = .run (.csOn b) := rfl
@[simp] theorem beginCsOn_lOp (b : Exchange) : (s.beginCsOn b).lOp = s.lOp := rfl
@[simp] theorem beginCsOn_lIdx (b : Exchange) : (s.beginCsOn b).lIdx = s.lIdx := rfl
@[simp] theorem beginCsOn_lArg (b : Exchange) : (s.beginCsOn b).lArg = s.lArg := rfl
@[simp] theorem beginCsOn_lLen (b : Exchange) : (s.beginCsOn b).lLen = s.lLen := rfl
@[simp] theorem beginCsOn_csOwned (b : Exchange) : (s.beginCsOn b).csOwned = true := rfl
@[simp] theorem beginCsOn_wcopy (b : Exchange) : (s.beginCsOn b).wcopy = s.wcopy := rfl
@[simp] theorem beginCsOn_t0 (b : Exchange) : (s.beginCsOn b).t0 = s.t0 := rfl
@[simp] theorem beginCsOn_t0Init (b : Exchange) : (s.beginCsOn b).t0Init = s.t0Init := rfl
@[simp] theorem beginCsOn_req (b : Exchange) : (s.beginCsOn b).req = some .csAssert := rfl
@[simp] theorem beginCsOn_wire (b : Exchange) : (s.beginCsOn b).wire = .csAssert :: s.wire := rfl
@[simp] theorem beginCsOn_now (b : Exchange) : (s.beginCsOn b).now = s.now := rfl
@[simp] theorem beginCsOn_wraps (b : Exchange) : (s.beginCsOn b).wraps = s.wraps := rfl
@[simp] theorem beginCsOn_inbox (b : Exchange) : (s.beginCsOn b).inbox = s.inbox := rfl
@[simp] theorem beginCsOn_cycle (b : Exchange) : (s.beginCsOn b).cycle = s.cycle := rfl
@[simp] theorem beginCsOn_rdata (b : Exchange) : (s.beginCsOn b).rdata = s.rdata := rfl
@[simp] theorem beginCsOn_draws (b : Exchange) : (s.beginCsOn b).draws = s.draws := rfl
@[simp] theorem beginCsOn_dataEpoch (b : Exchange) : (s.beginCsOn b).dataEpoch = s.dataEpoch := rfl

/-! ### `beginCsOff` -/

@[simp] theorem beginCsOff_params (b : Exchange) : (s.beginCsOff b).params = s.params := rfl
@[simp] theorem beginCsOff_ctrlOp (b : Exchange) : (s.beginCsOff b).ctrlOp = s.ctrlOp := rfl
@[simp] theorem beginCsOff_busy (b : Exchange) : (s.beginCsOff b).busy = s.busy := rfl
@[simp] theorem beginCsOff_done (b : Exchange) : (s.beginCsOff b).done = s.done := rfl
@[simp] theorem beginCsOff_wign (b : Exchange) : (s.beginCsOff b).wign = s.wign := rfl
@[simp] theorem beginCsOff_csst (b : Exchange) : (s.beginCsOff b).csst = s.csst := rfl
@[simp] theorem beginCsOff_err (b : Exchange) : (s.beginCsOff b).err = s.err := rfl
@[simp] theorem beginCsOff_detail (b : Exchange) : (s.beginCsOff b).detail = s.detail := rfl
@[simp] theorem beginCsOff_initst (b : Exchange) : (s.beginCsOff b).initst = s.initst := rfl
@[simp] theorem beginCsOff_cmdIdx (b : Exchange) : (s.beginCsOff b).cmdIdx = s.cmdIdx := rfl
@[simp] theorem beginCsOff_arg (b : Exchange) : (s.beginCsOff b).arg = s.arg := rfl
@[simp] theorem beginCsOff_respLen (b : Exchange) : (s.beginCsOff b).respLen = s.respLen := rfl
@[simp] theorem beginCsOff_crcAcc (b : Exchange) : (s.beginCsOff b).crcAcc = s.crcAcc := rfl
@[simp] theorem beginCsOff_acmd41cnt (b : Exchange) :
    (s.beginCsOff b).acmd41cnt = s.acmd41cnt := rfl
@[simp] theorem beginCsOff_wresp (b : Exchange) : (s.beginCsOff b).wresp = s.wresp := rfl
@[simp] theorem beginCsOff_resp (b : Exchange) : (s.beginCsOff b).resp = s.resp := rfl
@[simp] theorem beginCsOff_frame (b : Exchange) : (s.beginCsOff b).frame = s.frame := rfl
@[simp] theorem beginCsOff_data (b : Exchange) : (s.beginCsOff b).data = s.data := rfl
@[simp] theorem beginCsOff_seq (b : Exchange) : (s.beginCsOff b).seq = .run (.csOff b) := rfl
@[simp] theorem beginCsOff_lOp (b : Exchange) : (s.beginCsOff b).lOp = s.lOp := rfl
@[simp] theorem beginCsOff_lIdx (b : Exchange) : (s.beginCsOff b).lIdx = s.lIdx := rfl
@[simp] theorem beginCsOff_lArg (b : Exchange) : (s.beginCsOff b).lArg = s.lArg := rfl
@[simp] theorem beginCsOff_lLen (b : Exchange) : (s.beginCsOff b).lLen = s.lLen := rfl
@[simp] theorem beginCsOff_csOwned (b : Exchange) : (s.beginCsOff b).csOwned = false := rfl
@[simp] theorem beginCsOff_wcopy (b : Exchange) : (s.beginCsOff b).wcopy = s.wcopy := rfl
@[simp] theorem beginCsOff_t0 (b : Exchange) : (s.beginCsOff b).t0 = s.t0 := rfl
@[simp] theorem beginCsOff_t0Init (b : Exchange) : (s.beginCsOff b).t0Init = s.t0Init := rfl
@[simp] theorem beginCsOff_req (b : Exchange) : (s.beginCsOff b).req = some .csDeassert := rfl
@[simp] theorem beginCsOff_wire (b : Exchange) :
    (s.beginCsOff b).wire = .csDeassert :: s.wire := rfl
@[simp] theorem beginCsOff_now (b : Exchange) : (s.beginCsOff b).now = s.now := rfl
@[simp] theorem beginCsOff_wraps (b : Exchange) : (s.beginCsOff b).wraps = s.wraps := rfl
@[simp] theorem beginCsOff_inbox (b : Exchange) : (s.beginCsOff b).inbox = s.inbox := rfl
@[simp] theorem beginCsOff_cycle (b : Exchange) : (s.beginCsOff b).cycle = s.cycle := rfl
@[simp] theorem beginCsOff_rdata (b : Exchange) : (s.beginCsOff b).rdata = s.rdata := rfl
@[simp] theorem beginCsOff_draws (b : Exchange) : (s.beginCsOff b).draws = s.draws := rfl
@[simp] theorem beginCsOff_dataEpoch (b : Exchange) :
    (s.beginCsOff b).dataEpoch = s.dataEpoch := rfl

/-! ### `beginChunk` -/

@[simp] theorem beginChunk_params (x : Xfer) (str : List Byte) (c : Nat) :
    (s.beginChunk x str c).params = s.params := rfl
@[simp] theorem beginChunk_ctrlOp (x : Xfer) (str : List Byte) (c : Nat) :
    (s.beginChunk x str c).ctrlOp = s.ctrlOp := rfl
@[simp] theorem beginChunk_busy (x : Xfer) (str : List Byte) (c : Nat) :
    (s.beginChunk x str c).busy = s.busy := rfl
@[simp] theorem beginChunk_done (x : Xfer) (str : List Byte) (c : Nat) :
    (s.beginChunk x str c).done = s.done := rfl
@[simp] theorem beginChunk_wign (x : Xfer) (str : List Byte) (c : Nat) :
    (s.beginChunk x str c).wign = s.wign := rfl
@[simp] theorem beginChunk_csst (x : Xfer) (str : List Byte) (c : Nat) :
    (s.beginChunk x str c).csst = s.csst := rfl
@[simp] theorem beginChunk_err (x : Xfer) (str : List Byte) (c : Nat) :
    (s.beginChunk x str c).err = s.err := rfl
@[simp] theorem beginChunk_detail (x : Xfer) (str : List Byte) (c : Nat) :
    (s.beginChunk x str c).detail = s.detail := rfl
@[simp] theorem beginChunk_initst (x : Xfer) (str : List Byte) (c : Nat) :
    (s.beginChunk x str c).initst = s.initst := rfl
@[simp] theorem beginChunk_cmdIdx (x : Xfer) (str : List Byte) (c : Nat) :
    (s.beginChunk x str c).cmdIdx = s.cmdIdx := rfl
@[simp] theorem beginChunk_arg (x : Xfer) (str : List Byte) (c : Nat) :
    (s.beginChunk x str c).arg = s.arg := rfl
@[simp] theorem beginChunk_respLen (x : Xfer) (str : List Byte) (c : Nat) :
    (s.beginChunk x str c).respLen = s.respLen := rfl
@[simp] theorem beginChunk_crcAcc (x : Xfer) (str : List Byte) (c : Nat) :
    (s.beginChunk x str c).crcAcc = s.crcAcc := rfl
@[simp] theorem beginChunk_acmd41cnt (x : Xfer) (str : List Byte) (c : Nat) :
    (s.beginChunk x str c).acmd41cnt = s.acmd41cnt := rfl
@[simp] theorem beginChunk_wresp (x : Xfer) (str : List Byte) (c : Nat) :
    (s.beginChunk x str c).wresp = s.wresp := rfl
@[simp] theorem beginChunk_resp (x : Xfer) (str : List Byte) (c : Nat) :
    (s.beginChunk x str c).resp = s.resp := rfl
@[simp] theorem beginChunk_frame (x : Xfer) (str : List Byte) (c : Nat) :
    (s.beginChunk x str c).frame = s.frame := rfl
@[simp] theorem beginChunk_data (x : Xfer) (str : List Byte) (c : Nat) :
    (s.beginChunk x str c).data = s.data := rfl
@[simp] theorem beginChunk_seq (x : Xfer) (str : List Byte) (c : Nat) :
    (s.beginChunk x str c).seq = .run (.xfer x c) := rfl
@[simp] theorem beginChunk_lOp (x : Xfer) (str : List Byte) (c : Nat) :
    (s.beginChunk x str c).lOp = s.lOp := rfl
@[simp] theorem beginChunk_lIdx (x : Xfer) (str : List Byte) (c : Nat) :
    (s.beginChunk x str c).lIdx = s.lIdx := rfl
@[simp] theorem beginChunk_lArg (x : Xfer) (str : List Byte) (c : Nat) :
    (s.beginChunk x str c).lArg = s.lArg := rfl
@[simp] theorem beginChunk_lLen (x : Xfer) (str : List Byte) (c : Nat) :
    (s.beginChunk x str c).lLen = s.lLen := rfl
@[simp] theorem beginChunk_csOwned (x : Xfer) (str : List Byte) (c : Nat) :
    (s.beginChunk x str c).csOwned = s.csOwned := rfl
@[simp] theorem beginChunk_wcopy (x : Xfer) (str : List Byte) (c : Nat) :
    (s.beginChunk x str c).wcopy = s.wcopy := rfl
@[simp] theorem beginChunk_t0 (x : Xfer) (str : List Byte) (c : Nat) :
    (s.beginChunk x str c).t0 = s.t0 := rfl
@[simp] theorem beginChunk_t0Init (x : Xfer) (str : List Byte) (c : Nat) :
    (s.beginChunk x str c).t0Init = s.t0Init := rfl
@[simp] theorem beginChunk_req (x : Xfer) (str : List Byte) (c : Nat) :
    (s.beginChunk x str c).req = some (.bulk (chunk s.params.chunkSize str c)) := rfl
@[simp] theorem beginChunk_wire (x : Xfer) (str : List Byte) (c : Nat) :
    (s.beginChunk x str c).wire = .bulk (chunk s.params.chunkSize str c) :: s.wire := rfl
@[simp] theorem beginChunk_now (x : Xfer) (str : List Byte) (c : Nat) :
    (s.beginChunk x str c).now = s.now := rfl
@[simp] theorem beginChunk_wraps (x : Xfer) (str : List Byte) (c : Nat) :
    (s.beginChunk x str c).wraps = s.wraps := rfl
@[simp] theorem beginChunk_inbox (x : Xfer) (str : List Byte) (c : Nat) :
    (s.beginChunk x str c).inbox = s.inbox := rfl
@[simp] theorem beginChunk_cycle (x : Xfer) (str : List Byte) (c : Nat) :
    (s.beginChunk x str c).cycle = s.cycle := rfl
@[simp] theorem beginChunk_rdata (x : Xfer) (str : List Byte) (c : Nat) :
    (s.beginChunk x str c).rdata = s.rdata := rfl
@[simp] theorem beginChunk_draws (x : Xfer) (str : List Byte) (c : Nat) :
    (s.beginChunk x str c).draws = s.draws := rfl
@[simp] theorem beginChunk_dataEpoch (x : Xfer) (str : List Byte) (c : Nat) :
    (s.beginChunk x str c).dataEpoch = s.dataEpoch := rfl

/-! ### `beginPoll` -/

@[simp] theorem beginPoll_params (k : PollKind) : (s.beginPoll k).params = s.params := rfl
@[simp] theorem beginPoll_ctrlOp (k : PollKind) : (s.beginPoll k).ctrlOp = s.ctrlOp := rfl
@[simp] theorem beginPoll_busy (k : PollKind) : (s.beginPoll k).busy = s.busy := rfl
@[simp] theorem beginPoll_done (k : PollKind) : (s.beginPoll k).done = s.done := rfl
@[simp] theorem beginPoll_wign (k : PollKind) : (s.beginPoll k).wign = s.wign := rfl
@[simp] theorem beginPoll_csst (k : PollKind) : (s.beginPoll k).csst = s.csst := rfl
@[simp] theorem beginPoll_err (k : PollKind) : (s.beginPoll k).err = s.err := rfl
@[simp] theorem beginPoll_detail (k : PollKind) : (s.beginPoll k).detail = s.detail := rfl
@[simp] theorem beginPoll_initst (k : PollKind) : (s.beginPoll k).initst = s.initst := rfl
@[simp] theorem beginPoll_cmdIdx (k : PollKind) : (s.beginPoll k).cmdIdx = s.cmdIdx := rfl
@[simp] theorem beginPoll_arg (k : PollKind) : (s.beginPoll k).arg = s.arg := rfl
@[simp] theorem beginPoll_respLen (k : PollKind) : (s.beginPoll k).respLen = s.respLen := rfl
@[simp] theorem beginPoll_crcAcc (k : PollKind) : (s.beginPoll k).crcAcc = s.crcAcc := rfl
@[simp] theorem beginPoll_acmd41cnt (k : PollKind) : (s.beginPoll k).acmd41cnt = s.acmd41cnt := rfl
@[simp] theorem beginPoll_wresp (k : PollKind) : (s.beginPoll k).wresp = s.wresp := rfl
@[simp] theorem beginPoll_resp (k : PollKind) : (s.beginPoll k).resp = s.resp := rfl
@[simp] theorem beginPoll_frame (k : PollKind) : (s.beginPoll k).frame = s.frame := rfl
@[simp] theorem beginPoll_data (k : PollKind) : (s.beginPoll k).data = s.data := rfl
@[simp] theorem beginPoll_seq (k : PollKind) : (s.beginPoll k).seq = .run (.poll k) := rfl
@[simp] theorem beginPoll_lOp (k : PollKind) : (s.beginPoll k).lOp = s.lOp := rfl
@[simp] theorem beginPoll_lIdx (k : PollKind) : (s.beginPoll k).lIdx = s.lIdx := rfl
@[simp] theorem beginPoll_lArg (k : PollKind) : (s.beginPoll k).lArg = s.lArg := rfl
@[simp] theorem beginPoll_lLen (k : PollKind) : (s.beginPoll k).lLen = s.lLen := rfl
@[simp] theorem beginPoll_csOwned (k : PollKind) : (s.beginPoll k).csOwned = s.csOwned := rfl
@[simp] theorem beginPoll_wcopy (k : PollKind) : (s.beginPoll k).wcopy = s.wcopy := rfl
@[simp] theorem beginPoll_t0 (k : PollKind) : (s.beginPoll k).t0 = s.t0 := rfl
@[simp] theorem beginPoll_t0Init (k : PollKind) : (s.beginPoll k).t0Init = s.t0Init := rfl
@[simp] theorem beginPoll_req (k : PollKind) :
    (s.beginPoll k).req = some (.bulk [Config.fill]) := rfl
@[simp] theorem beginPoll_wire (k : PollKind) :
    (s.beginPoll k).wire = .bulk [Config.fill] :: s.wire := rfl
@[simp] theorem beginPoll_now (k : PollKind) : (s.beginPoll k).now = s.now := rfl
@[simp] theorem beginPoll_wraps (k : PollKind) : (s.beginPoll k).wraps = s.wraps := rfl
@[simp] theorem beginPoll_inbox (k : PollKind) : (s.beginPoll k).inbox = s.inbox := rfl
@[simp] theorem beginPoll_cycle (k : PollKind) : (s.beginPoll k).cycle = s.cycle := rfl
@[simp] theorem beginPoll_rdata (k : PollKind) : (s.beginPoll k).rdata = s.rdata := rfl
@[simp] theorem beginPoll_draws (k : PollKind) : (s.beginPoll k).draws = s.draws := rfl
@[simp] theorem beginPoll_dataEpoch (k : PollKind) : (s.beginPoll k).dataEpoch = s.dataEpoch := rfl

/-! ### `enterCmd` -/

@[simp] theorem enterCmd_params (w : Cmd) : (s.enterCmd w).params = s.params := rfl
@[simp] theorem enterCmd_ctrlOp (w : Cmd) : (s.enterCmd w).ctrlOp = s.ctrlOp := rfl
@[simp] theorem enterCmd_busy (w : Cmd) : (s.enterCmd w).busy = s.busy := rfl
@[simp] theorem enterCmd_done (w : Cmd) : (s.enterCmd w).done = s.done := rfl
@[simp] theorem enterCmd_wign (w : Cmd) : (s.enterCmd w).wign = s.wign := rfl
@[simp] theorem enterCmd_csst (w : Cmd) : (s.enterCmd w).csst = s.csst := rfl
@[simp] theorem enterCmd_err (w : Cmd) : (s.enterCmd w).err = s.err := rfl
@[simp] theorem enterCmd_detail (w : Cmd) : (s.enterCmd w).detail = s.detail := rfl
@[simp] theorem enterCmd_initst (w : Cmd) : (s.enterCmd w).initst = s.initst := rfl
@[simp] theorem enterCmd_cmdIdx (w : Cmd) : (s.enterCmd w).cmdIdx = s.cmdIdx := rfl
@[simp] theorem enterCmd_arg (w : Cmd) : (s.enterCmd w).arg = s.arg := rfl
@[simp] theorem enterCmd_respLen (w : Cmd) : (s.enterCmd w).respLen = s.respLen := rfl
@[simp] theorem enterCmd_crcAcc (w : Cmd) : (s.enterCmd w).crcAcc = s.crcAcc := rfl
@[simp] theorem enterCmd_acmd41cnt (w : Cmd) : (s.enterCmd w).acmd41cnt = s.acmd41cnt := rfl
@[simp] theorem enterCmd_wresp (w : Cmd) : (s.enterCmd w).wresp = s.wresp := rfl
@[simp] theorem enterCmd_resp (w : Cmd) : (s.enterCmd w).resp = s.resp := rfl
@[simp] theorem enterCmd_frame (w : Cmd) :
    (s.enterCmd w).frame = buildFrame (w.idx s) (w.arg s) := rfl
@[simp] theorem enterCmd_data (w : Cmd) : (s.enterCmd w).data = s.data := rfl
@[simp] theorem enterCmd_seq (w : Cmd) : (s.enterCmd w).seq = .run (.issueCmd w) := rfl
@[simp] theorem enterCmd_lOp (w : Cmd) : (s.enterCmd w).lOp = s.lOp := rfl
@[simp] theorem enterCmd_lIdx (w : Cmd) : (s.enterCmd w).lIdx = s.lIdx := rfl
@[simp] theorem enterCmd_lArg (w : Cmd) : (s.enterCmd w).lArg = s.lArg := rfl
@[simp] theorem enterCmd_lLen (w : Cmd) : (s.enterCmd w).lLen = s.lLen := rfl
@[simp] theorem enterCmd_csOwned (w : Cmd) : (s.enterCmd w).csOwned = s.csOwned := rfl
@[simp] theorem enterCmd_wcopy (w : Cmd) : (s.enterCmd w).wcopy = s.wcopy := rfl
@[simp] theorem enterCmd_t0 (w : Cmd) : (s.enterCmd w).t0 = s.t0 := rfl
@[simp] theorem enterCmd_t0Init (w : Cmd) : (s.enterCmd w).t0Init = s.t0Init := rfl
@[simp] theorem enterCmd_req (w : Cmd) : (s.enterCmd w).req = s.req := rfl
@[simp] theorem enterCmd_wire (w : Cmd) : (s.enterCmd w).wire = s.wire := rfl
@[simp] theorem enterCmd_now (w : Cmd) : (s.enterCmd w).now = s.now := rfl
@[simp] theorem enterCmd_wraps (w : Cmd) : (s.enterCmd w).wraps = s.wraps := rfl
@[simp] theorem enterCmd_inbox (w : Cmd) : (s.enterCmd w).inbox = s.inbox := rfl
@[simp] theorem enterCmd_cycle (w : Cmd) : (s.enterCmd w).cycle = s.cycle := rfl
@[simp] theorem enterCmd_rdata (w : Cmd) : (s.enterCmd w).rdata = s.rdata := rfl
@[simp] theorem enterCmd_draws (w : Cmd) : (s.enterCmd w).draws = s.draws := rfl
@[simp] theorem enterCmd_dataEpoch (w : Cmd) : (s.enterCmd w).dataEpoch = s.dataEpoch := rfl

/-! ### `openCommand` -/

@[simp] theorem openCommand_params (w : Cmd) (f : Vector Byte 6) :
    (s.openCommand w f).params = s.params := rfl
@[simp] theorem openCommand_ctrlOp (w : Cmd) (f : Vector Byte 6) :
    (s.openCommand w f).ctrlOp = s.ctrlOp := rfl
@[simp] theorem openCommand_busy (w : Cmd) (f : Vector Byte 6) :
    (s.openCommand w f).busy = s.busy := rfl
@[simp] theorem openCommand_done (w : Cmd) (f : Vector Byte 6) :
    (s.openCommand w f).done = s.done := rfl
@[simp] theorem openCommand_wign (w : Cmd) (f : Vector Byte 6) :
    (s.openCommand w f).wign = s.wign := rfl
@[simp] theorem openCommand_csst (w : Cmd) (f : Vector Byte 6) :
    (s.openCommand w f).csst = s.csst := rfl
@[simp] theorem openCommand_err (w : Cmd) (f : Vector Byte 6) :
    (s.openCommand w f).err = s.err := rfl
@[simp] theorem openCommand_detail (w : Cmd) (f : Vector Byte 6) :
    (s.openCommand w f).detail = s.detail := rfl
@[simp] theorem openCommand_initst (w : Cmd) (f : Vector Byte 6) :
    (s.openCommand w f).initst = s.initst := rfl
@[simp] theorem openCommand_cmdIdx (w : Cmd) (f : Vector Byte 6) :
    (s.openCommand w f).cmdIdx = s.cmdIdx := rfl
@[simp] theorem openCommand_arg (w : Cmd) (f : Vector Byte 6) :
    (s.openCommand w f).arg = s.arg := rfl
@[simp] theorem openCommand_respLen (w : Cmd) (f : Vector Byte 6) :
    (s.openCommand w f).respLen = s.respLen := rfl
@[simp] theorem openCommand_crcAcc (w : Cmd) (f : Vector Byte 6) :
    (s.openCommand w f).crcAcc = s.crcAcc := rfl
@[simp] theorem openCommand_acmd41cnt (w : Cmd) (f : Vector Byte 6) :
    (s.openCommand w f).acmd41cnt = s.acmd41cnt := rfl
@[simp] theorem openCommand_wresp (w : Cmd) (f : Vector Byte 6) :
    (s.openCommand w f).wresp = s.wresp := rfl
@[simp] theorem openCommand_resp (w : Cmd) (f : Vector Byte 6) :
    (s.openCommand w f).resp = Vector.replicate 8 0xFF#8 := rfl
@[simp] theorem openCommand_frame (w : Cmd) (f : Vector Byte 6) :
    (s.openCommand w f).frame = f := rfl
@[simp] theorem openCommand_data (w : Cmd) (f : Vector Byte 6) :
    (s.openCommand w f).data = s.data := rfl
@[simp] theorem openCommand_seq (w : Cmd) (f : Vector Byte 6) :
    (s.openCommand w f).seq = .run (.csOn (.cmd w)) := rfl
@[simp] theorem openCommand_lOp (w : Cmd) (f : Vector Byte 6) :
    (s.openCommand w f).lOp = s.lOp := rfl
@[simp] theorem openCommand_lIdx (w : Cmd) (f : Vector Byte 6) :
    (s.openCommand w f).lIdx = s.lIdx := rfl
@[simp] theorem openCommand_lArg (w : Cmd) (f : Vector Byte 6) :
    (s.openCommand w f).lArg = s.lArg := rfl
@[simp] theorem openCommand_lLen (w : Cmd) (f : Vector Byte 6) :
    (s.openCommand w f).lLen = s.lLen := rfl
@[simp] theorem openCommand_csOwned (w : Cmd) (f : Vector Byte 6) :
    (s.openCommand w f).csOwned = true := rfl
@[simp] theorem openCommand_wcopy (w : Cmd) (f : Vector Byte 6) :
    (s.openCommand w f).wcopy = s.wcopy := rfl
@[simp] theorem openCommand_t0 (w : Cmd) (f : Vector Byte 6) : (s.openCommand w f).t0 = s.now := rfl
@[simp] theorem openCommand_t0Init (w : Cmd) (f : Vector Byte 6) :
    (s.openCommand w f).t0Init = s.t0Init := rfl
@[simp] theorem openCommand_req (w : Cmd) (f : Vector Byte 6) :
    (s.openCommand w f).req = some .csAssert := rfl
@[simp] theorem openCommand_wire (w : Cmd) (f : Vector Byte 6) :
    (s.openCommand w f).wire = .csAssert :: s.wire := rfl
@[simp] theorem openCommand_now (w : Cmd) (f : Vector Byte 6) :
    (s.openCommand w f).now = s.now := rfl
@[simp] theorem openCommand_wraps (w : Cmd) (f : Vector Byte 6) :
    (s.openCommand w f).wraps = s.wraps := rfl
@[simp] theorem openCommand_inbox (w : Cmd) (f : Vector Byte 6) :
    (s.openCommand w f).inbox = s.inbox := rfl
@[simp] theorem openCommand_cycle (w : Cmd) (f : Vector Byte 6) :
    (s.openCommand w f).cycle = s.cycle := rfl
@[simp] theorem openCommand_rdata (w : Cmd) (f : Vector Byte 6) :
    (s.openCommand w f).rdata = s.rdata := rfl
@[simp] theorem openCommand_draws (w : Cmd) (f : Vector Byte 6) :
    (s.openCommand w f).draws = s.draws := rfl
@[simp] theorem openCommand_dataEpoch (w : Cmd) (f : Vector Byte 6) :
    (s.openCommand w f).dataEpoch = s.dataEpoch := rfl

/-! ### `applyReset` -/

@[simp] theorem applyReset_params : (s.applyReset).params = s.params := rfl
@[simp] theorem applyReset_ctrlOp : (s.applyReset).ctrlOp = 0#3 := rfl
@[simp] theorem applyReset_busy : (s.applyReset).busy = false := rfl
@[simp] theorem applyReset_done : (s.applyReset).done = false := rfl
@[simp] theorem applyReset_wign : (s.applyReset).wign = false := rfl
@[simp] theorem applyReset_csst : (s.applyReset).csst = .deasserted := rfl
@[simp] theorem applyReset_err : (s.applyReset).err = .none := rfl
@[simp] theorem applyReset_detail : (s.applyReset).detail = .none := rfl
@[simp] theorem applyReset_initst : (s.applyReset).initst = .none := rfl
@[simp] theorem applyReset_cmdIdx : (s.applyReset).cmdIdx = 0#6 := rfl
@[simp] theorem applyReset_arg : (s.applyReset).arg = 0#32 := rfl
@[simp] theorem applyReset_respLen : (s.applyReset).respLen = 1#4 := rfl
@[simp] theorem applyReset_crcAcc : (s.applyReset).crcAcc = 0#7 := rfl
@[simp] theorem applyReset_acmd41cnt : (s.applyReset).acmd41cnt = 0#32 := rfl
@[simp] theorem applyReset_wresp : (s.applyReset).wresp = 0#8 := rfl
@[simp] theorem applyReset_resp : (s.applyReset).resp = Vector.replicate 8 0xFF#8 := rfl
@[simp] theorem applyReset_frame : (s.applyReset).frame = Vector.replicate 6 0x00#8 := rfl
@[simp] theorem applyReset_data : (s.applyReset).data = [] := rfl
@[simp] theorem applyReset_seq : (s.applyReset).seq = .idle := rfl
@[simp] theorem applyReset_lOp : (s.applyReset).lOp = 0#3 := rfl
@[simp] theorem applyReset_lIdx : (s.applyReset).lIdx = 0#6 := rfl
@[simp] theorem applyReset_lArg : (s.applyReset).lArg = 0#32 := rfl
@[simp] theorem applyReset_lLen : (s.applyReset).lLen = 1#4 := rfl
@[simp] theorem applyReset_csOwned : (s.applyReset).csOwned = false := rfl
@[simp] theorem applyReset_wcopy : (s.applyReset).wcopy = [] := rfl
@[simp] theorem applyReset_t0 : (s.applyReset).t0 = 0 := rfl
@[simp] theorem applyReset_t0Init : (s.applyReset).t0Init = 0 := rfl
@[simp] theorem applyReset_req : (s.applyReset).req = none := rfl
@[simp] theorem applyReset_wire : (s.applyReset).wire = [] := rfl
@[simp] theorem applyReset_now : (s.applyReset).now = s.now := rfl
@[simp] theorem applyReset_wraps : (s.applyReset).wraps = s.wraps := rfl
@[simp] theorem applyReset_inbox : (s.applyReset).inbox = s.inbox := rfl
@[simp] theorem applyReset_cycle : (s.applyReset).cycle = s.cycle := rfl
@[simp] theorem applyReset_rdata : (s.applyReset).rdata = s.rdata := rfl
@[simp] theorem applyReset_draws : (s.applyReset).draws = s.draws := rfl
@[simp] theorem applyReset_dataEpoch : (s.applyReset).dataEpoch = s.dataEpoch + 1 := rfl

end Sys2Proof.Machine
end

