-- ==== Sys2Proof/Laws/Ops.lean ====
section
/-! SUPPORT. One lemma per shared operation, saying what it can do, and the small lemmas of chunks, byte
strings and views; later proofs cite these instead of unfolding the operation. -/

namespace Sys2Proof.Machine

/-! ## Chunks -/

theorem chunk_length (size : Nat) (str : List Byte) (c : Nat) :
    (chunk size str c).length = min size (str.length - c * size) := by
  simp [chunk]

/-- A chunk that starts inside its string is neither empty nor too long (R206). -/
theorem chunk_bounds {size : Nat} {str : List Byte} {c : Nat} (h : 1 ≤ size)
    (hc : c * size < str.length) :
    1 ≤ (chunk size str c).length ∧ (chunk size str c).length ≤ size := by
  rw [chunk_length]; omega

theorem outgoing_length (x : Xfer) (s : State) : (x.outgoing s).length = x.size s := by
  cases x <;> simp [Xfer.outgoing, Xfer.size, Config.crcLen]

/-- The number of bytes a chunked transfer moves depends only on the parameters and L_LEN. -/
theorem size_congr {s t : State} (x : Xfer) (hp : t.params = s.params) (hl : t.lLen = s.lLen) :
    x.size t = x.size s := by
  cases x with
  | rest w => cases w <;> simp [Xfer.size, Cmd.len, hp, hl]
  | _ => simp [Xfer.size, hp]

/-- A transfer that moves no other string in two states with the same sources. -/
theorem outgoing_congr {s t : State} (x : Xfer) (hp : t.params = s.params) (hl : t.lLen = s.lLen)
    (hf : t.frame = s.frame) (hw : t.wcopy = s.wcopy) (he : t.dataEpoch = s.dataEpoch) :
    x.outgoing t = x.outgoing s := by
  cases x with
  | rest w => cases w <;> simp [Xfer.outgoing, Cmd.len, hp, hl]
  | copy => simp [Xfer.outgoing, State.wcopyByte, hw, he]
  | _ => simp [Xfer.outgoing, hp, hf]

theorem idx_congr {s t : State} (w : Cmd) (h : t.lIdx = s.lIdx) : w.idx t = w.idx s := by
  cases w <;> simp [Cmd.idx, h]

theorem arg_congr {s t : State} (w : Cmd) (h : t.lArg = s.lArg) : w.arg t = w.arg s := by
  cases w <;> simp [Cmd.arg, h]

theorem len_congr {s t : State} (w : Cmd) (hp : t.params = s.params) (hl : t.lLen = s.lLen) :
    w.len t = w.len s := by
  cases w <;> simp [Cmd.len, hp, hl]

/-! ## RESP -/

/-- RESP after a byte string is stored at RESP[i ..]. -/
theorem putAt_getElem (v : Vector Byte 8) (i : Nat) (bs : List Byte) (k : Nat) (hk : k < 8) :
    (putAt v i bs)[k] = (if i ≤ k then bs[k - i]? else none).getD v[k] := by
  simp [putAt]

theorem freeBytes_length (d n : Nat) : (freeBytes d n).length = n := by simp [freeBytes]

/-! ## The failure path (R285) -/

/-- With chip-select owned, the failure path requests one CS_DEASSERT. -/
theorem raise_owned {s : State} {p : Point} (hs : s.seq = .run p) (ho : s.csOwned = true)
    (d : Detail) :
    s.raise d =
      ({ s with csOwned := false }.issue .csDeassert).goto (.failCs p.op d) := by
  simp [State.raise, hs, ho]

/-- Without it, the failure path requests nothing and ends the operation. -/
theorem raise_not_owned {s : State} (ho : s.csOwned = false) (d : Detail) :
    s.raise d = s.endOp d := by
  unfold State.raise
  split
  · rfl
  · simp [ho]

/-- The failure path touches nothing but STATUS, `cs_owned`, SEQ and the port. -/
theorem raise_keeps (s : State) (d : Detail) :
    ∃ err detail csOwned seq busy done req wire,
      s.raise d = { s with err := err, detail := detail, csOwned := csOwned, seq := seq,
                           busy := busy, done := done, req := req, wire := wire } := by
  unfold State.raise
  split
  · exact ⟨_, _, _, _, _, _, s.req, s.wire, rfl⟩
  · split
    · exact ⟨s.err, s.detail, _, _, s.busy, s.done, _, _, rfl⟩
    · exact ⟨_, _, _, _, _, _, s.req, s.wire, rfl⟩

/-! ## Landing and losing chunks -/

/-- A landed chunk changes RESP or DATA and nothing else. -/
theorem land_keeps (s : State) (x : Xfer) (c : Nat) (bs : List Byte) :
    ∃ resp data, s.land x c bs = { s with resp := resp, data := data } := by
  cases x <;> first
    | exact ⟨_, s.data, rfl⟩
    | exact ⟨s.resp, _, rfl⟩

/-- A lost chunk changes RESP or DATA, and the count of draws, and nothing else. -/
theorem lose_keeps (s : State) (x : Xfer) (c : Nat) :
    ∃ resp data draws, s.lose x c = { s with resp := resp, data := data, draws := draws } := by
  cases x <;> first
    | exact ⟨_, s.data, _, rfl⟩
    | exact ⟨s.resp, _, _, rfl⟩

/-- A poll byte that does not match either passes the deadline or asks for the next byte. -/
theorem pollMiss_cases (s : State) (k : PollKind) :
    (s.late s.t0 (k.deadline s) = true ∧ s.pollMiss k = s.raise k.timeoutDetail) ∨
    (s.late s.t0 (k.deadline s) = false ∧ s.pollMiss k = s.beginPoll k) := by
  unfold State.pollMiss
  cases h : s.late s.t0 (k.deadline s) <;> simp

/-! ## Host reads -/

theorem reservedOffset_iff (off : Nat) : reservedOffset off = true ↔
    (0x02C ≤ off ∧ off < 0x040) ∨ (0x078 ≤ off ∧ off < 0x200) := by
  simp [reservedOffset]

/-- No register stands at a reserved offset (R64). -/
theorem readReg_reserved (s : State) {off : Nat} (h : reservedOffset off = true) :
    s.readReg off = 0#32 := by
  rw [reservedOffset_iff] at h
  unfold State.readReg
  repeat first | rw [if_neg (by omega)] | rw [dif_neg (by omega)]

/-- A host read changes only the value read and the count of draws. -/
theorem execHostRead_next {off : BitVec 10} {s t : State} (h : execHostRead off s = .next t) :
    t = { s with rdata := t.rdata, draws := t.draws } := by
  unfold execHostRead at h
  split at h
  · cases h
  · split at h
    · split at h <;> (cases h; rfl)
    · cases h; rfl

end Sys2Proof.Machine
end

