-- ==== Sys2Proof/Laws/Decode.lean ====
section
/-! SUPPORT. What the decoder can answer and what the decoded instruction then does: the format of every
decoded host access, and the frame that is sent, byte for byte. -/

namespace Sys2Proof.Machine

/-- The bytes of a frame put together from the fields of a 48-bit value with the start and stop bits of
R100 are the bytes of that value. -/
theorem frame_fields (w : BitVec 48) (h1 : w.extractLsb' 46 2 = 1#2)
    (h2 : w.extractLsb' 0 1 = 1#1) :
    frameBytes (w.extractLsb' 40 6) (w.extractLsb' 8 32) (w.extractLsb' 1 7) =
    #v[w.extractLsb' 40 8, w.extractLsb' 32 8, w.extractLsb' 24 8, w.extractLsb' 16 8,
    w.extractLsb' 8 8, w.extractLsb' 0 8] := by
  have k0 : 0x40#8 ||| (BitVec.extractLsb' 40 6 w).zeroExtend 8 = w.extractLsb' 40 8 := by
    have a0 := congrArg (·.getLsbD 0) h1
    have a1 := congrArg (·.getLsbD 1) h1
    simp at a0 a1
    apply BitVec.eq_of_getLsbD_eq
    intro i hi
    interval_cases i <;> simp <;> simp_all
  have k5 : BitVec.extractLsb' 1 7 w ++ 1#1 = w.extractLsb' 0 8 := by
    rw [← h2]
    apply BitVec.eq_of_getLsbD_eq
    intro i hi
    rw [BitVec.getLsbD_append]
    by_cases hp : i < 1
    · have h3 : i < 8 := by omega
      rw [if_pos hp, BitVec.getLsbD_extractLsb', BitVec.getLsbD_extractLsb', decide_eq_true hp, decide_eq_true h3]
    · have h4 : i - 1 < 7 := by omega
      have h5 : 1 + (i - 1) = 0 + i := by omega
      rw [if_neg hp, BitVec.getLsbD_extractLsb', BitVec.getLsbD_extractLsb', decide_eq_true h4, decide_eq_true hi, h5]
  unfold frameBytes
  have kk : ∀ n, n < 4 → byteOf (w.extractLsb' 8 32) n = w.extractLsb' (8 + 8 * n) 8 := by
    intro n hn
    apply BitVec.eq_of_getLsbD_eq
    intro i hi
    simp [byteOf]
    have : 8 * n + i < 32 := by omega
    simp [this, hi, Nat.add_assoc]
  simp only [k0, k5, kk 0 (by omega), kk 1 (by omega), kk 2 (by omega), kk 3 (by omega)]

/-- The bytes of six bytes read as one number. -/
theorem join48_bytes (b0 b1 b2 b3 b4 b5 : Byte) :
    (join48 b0 b1 b2 b3 b4 b5).extractLsb' 40 8 = b0 ∧ (join48 b0 b1 b2 b3 b4 b5).extractLsb' 32 8
    = b1 ∧
    (join48 b0 b1 b2 b3 b4 b5).extractLsb' 24 8 = b2 ∧ (join48 b0 b1 b2 b3 b4 b5).extractLsb' 16 8
    = b3 ∧
    (join48 b0 b1 b2 b3 b4 b5).extractLsb' 8 8 = b4 ∧ (join48 b0 b1 b2 b3 b4 b5).extractLsb' 0 8 =
    b5 := by
  unfold join48
  refine ⟨?_, ?_, ?_, ?_, ?_, ?_⟩ <;>
  · apply BitVec.eq_of_getLsbD_eq
    intro i hi
    simp only [BitVec.getLsbD_extractLsb', BitVec.getLsbD_append, hi, decide_true, Bool.true_and]
    interval_cases i <;> simp

/-- A vector of six is its six elements. -/
theorem vector6_eq (f : Vector Byte 6) : ∃ b0 b1 b2 b3 b4 b5, f = #v[b0,b1,b2,b3,b4,b5] := by
  obtain ⟨⟨l⟩, hl⟩ := f
  simp at hl
  match l, hl with
  | [b0,b1,b2,b3,b4,b5], _ => exact ⟨b0,b1,b2,b3,b4,b5, rfl⟩

/-- A frame is sent only where the sequencer is about to send one (R171). -/
theorem sendFrame_frame {s t : State} {f : Vector Byte 6} (he : sendFrame f s = .next t) :
    ∃ w, s.seq = .run (.issueCmd w) ∧ t = s.openCommand w f := by
  unfold sendFrame at he
  split at he <;> try cases he
  rename_i w hs
  exact ⟨w, hs, rfl⟩

/-- Running the instruction fetched from FRAME sends FRAME unchanged; ACMD41CNT is all that differs
between the rows (R226). -/
theorem exec_frame {s t : State} {f : Vector Byte 6} {i} (hd : decode .cmdFrame f.toList = .ok i)
    (he : exec i s = .next t)
   : ∃ u, (u = s ∨ u = { s with acmd41cnt := saturatingSucc s.acmd41cnt }) ∧ sendFrame f u = .next
    t := by
  obtain ⟨b0,b1,b2,b3,b4,b5,rfl⟩ := vector6_eq f
  have hd : decodeFrame (join48 b0 b1 b2 b3 b4 b5) = .ok i := hd
  unfold decodeFrame at hd
  split at hd; · cases hd
  split at hd; · cases hd
  rename_i h1 h2
  have hb := frame_fields (join48 b0 b1 b2 b3 b4 b5) (by simpa using h1) (by simpa using h2)
  obtain ⟨e0,e1,e2,e3,e4,e5⟩ := join48_bytes b0 b1 b2 b3 b4 b5
  rw [e0,e1,e2,e3,e4,e5] at hb
  rw [← hb]
  have hd := Except.ok.inj hd
  generalize (join48 b0 b1 b2 b3 b4 b5).extractLsb' 40 6 = idx at *
  generalize (join48 b0 b1 b2 b3 b4 b5).extractLsb' 8 32 = arg at *
  generalize (join48 b0 b1 b2 b3 b4 b5).extractLsb' 1 7 = crc at *
  subst hd
  unfold decodeFrameFields at he
  split at he
  · rename_i e; subst e; exact ⟨s, .inl rfl, he⟩
  split at he
  · rename_i e; subst e; exact ⟨s, .inl rfl, he⟩
  split at he
  · rename_i e; obtain ⟨rfl, rfl, rfl⟩ := e; exact ⟨s, .inl rfl, he⟩
  split at he
  · rename_i e; obtain ⟨rfl, rfl, rfl⟩ := e; exact ⟨s, .inl rfl, he⟩
  split at he
  · rename_i e; obtain ⟨rfl, rfl, rfl⟩ := e; exact ⟨s, .inl rfl, he⟩
  split at he
  · rename_i e; obtain ⟨rfl, rfl, rfl⟩ := e
    refine ⟨_, ?_, he⟩
    split
    · exact .inr rfl
    · exact .inl rfl
  exact ⟨s, .inl rfl, he⟩

/-- A write decodes to a row of the HOST_ACCESS format. -/
theorem decodeWrite_format (off : BitVec 10) (data : Word) : (decodeWrite off data).format =
    .hostAccess := by
  unfold decodeWrite decodeLowWrite decodeCtrl
  simp only [apply_ite Instr.format]
  simp only [Instr.format, ite_self]

/-- A host access decodes to a row of the HOST_ACCESS format (R113). -/
theorem decodeHost_format {w off data i} (h : decodeHost w off data = .ok i) : i.format =
    .hostAccess := by
  unfold decodeHost at h
  split at h
  · cases h
  · split at h
    · rw [← Except.ok.inj h]; exact decodeWrite_format off data
    · rw [← Except.ok.inj h]; rfl

/-- A host access fetches a row of the HOST_ACCESS format. -/
theorem fetchHost_format {p a i} (h : fetchHost p a = .ok i) : i.format = .hostAccess := by
  unfold fetchHost at h
  split at h; · cases h
  split at h; · cases h
  split at h
  · rename_i j hd
    rw [← Except.ok.inj h]; exact decodeHost_format hd
  · cases h

/-- Five bytes decode to R1_PAYLOAD or are refused (R106). -/
theorem decode_r1Payload {l i} (h : (decode .r1Payload l).toOption = some i) : ∃ e j q, i =
    .r1Payload e j q := by
  match l, h with
  | [], h => cases h
  | [_], h => cases h
  | [_, _], h => cases h
  | [_, _, _], h => cases h
  | [_, _, _, _], h => cases h
  | [b, p1, p2, p3, p4], h =>
    simp only [decode, decodeR1Payload] at h
    split at h
    · cases h
    · cases h; exact ⟨_, _, _, rfl⟩
  | _ :: _ :: _ :: _ :: _ :: _ :: _, h => cases h

end Sys2Proof.Machine
end

