-- ==== Sys2Proof/Laws/Step.lean ====
section
/-! SUPPORT. What one step can do, said once: if `step` answers a next state, one of the cases of
`Stepped` holds. -/

namespace Sys2Proof.Machine

/-- The ways a step reaches a next state (R5). -/
inductive Stepped (s t : State) : Prop where
  /-- A host access runs its instruction (R113). -/
  | host (a : HostAccess) (rest : List Event) (i : Instr) (hi : s.inbox = .host a :: rest)
      (hf : fetchHost s.params a = .ok i) (he : exec i { s with inbox := rest } = .next t)
  /-- The platform resets the block (R310). -/
  | reset (rest : List Event) (hi : s.inbox = .reset :: rest)
      (ht : t = { s with inbox := rest }.applyReset)
  /-- The time input takes a value, which has not gone down while an operation runs (R47). -/
  | time (n : Nat) (rest : List Event) (hi : s.inbox = .time n :: rest)
      (hn : s.busy = true → s.tick ≤ n) (ht : t = { s with inbox := rest }.setTime n)
  /-- Another agent uses the transport between operations (R76). -/
  | otherAgent (rest : List Event) (hi : s.inbox = .otherAgent :: rest) (hb : s.busy = false)
      (ht : t = { s with inbox := rest })
  /-- The answer to a request that a reset abandoned is dropped (R312). -/
  | stale (a : Answer) (rest : List Event) (hi : s.inbox = .staleAnswer a :: rest)
      (ht : t = { s with inbox := rest })
  /-- An operation takes its first step. -/
  | start (op : Op) (hs : s.seq = .run (.start op)) (ht : t = s.startOp op)
  /-- A frame is fetched from FRAME and sent (R171). -/
  | frame (w : Cmd) (i : Instr) (hs : s.seq = .run (.issueCmd w))
      (hd : decode .cmdFrame s.frame.toList = .ok i) (he : exec i s = .next t)
  /-- WRITE_BLOCK sends its token (R257). -/
  | token (hs : s.seq = .run .issueToken) (he : exec .dataStart s = .next t)
  /-- An answer that no outstanding request can have is dropped (R40). -/
  | dropped (a : Answer) (rest : List Event) (hi : s.inbox = .answer a :: rest)
      (ho : ownMove s = none)
      (hr : s.req = none ∨ s.seq = .idle ∨ ∃ r, s.req = some r ∧ r.fits a = false) (ht : t = { s with inbox := rest })
  /-- An answer completes a wire row at the sequencer's point. -/
  | wire (a : Answer) (rest : List Event) (r : Request) (p : Point) (i : Instr)
      (hi : s.inbox = .answer a :: rest) (hr : s.req = some r) (hs : s.seq = .run p)
      (ho : ownMove s = none) (hfit : r.fits a = true)
      (hw : fetchWire { s with inbox := rest } p a = some i)
      (he : exec i { s with inbox := rest, req := none } = .next t)
  /-- Any other answer moves the sequencer on. -/
  | answer (a : Answer) (rest : List Event) (r : Request) (p : Point)
      (hi : s.inbox = .answer a :: rest) (hr : s.req = some r) (hs : s.seq = .run p)
      (ho : ownMove s = none) (hfit : r.fits a = true)
      (hw : fetchWire { s with inbox := rest } p a = none)
      (ht : t = { s with inbox := rest, req := none }.onAnswer p a)
  /-- The inbox is used up, and the inputs of `cycle` come again. -/
  | again (hi : s.inbox = []) (ho : ownMove s = none) (hc : s.cycle ≠ [])
      (ht : t = { s with inbox := s.cycle })
  /-- Nothing is left to come and the block is idle (R310). -/
  | waits (hi : s.inbox = []) (hs : s.seq = .idle) (ht : t = s)

/-- The sequencer's own moves. -/
theorem ownMove_cases {s t : State} {m : Move} (hm : ownMove s = some m)
    (h : (match m with | .execute i u => exec i u | .done o => o) = .next t) : Stepped s t := by
  unfold ownMove at hm
  split at hm
  · rename_i op hs
    cases hm
    exact .start op hs (by simpa using h.symm)
  · rename_i w hs
    split at hm
    · rename_i i hd
      cases hm
      exact .frame w i hs hd h
    · cases hm
      cases h
  · rename_i hs
    cases hm
    exact .token hs h
  all_goals cases hm

/-- A new time runs no instruction; it is taken unless it has gone down while an operation runs. -/
theorem timeMove_cases (s : State) (n : Nat) :
    (s.busy = true ∧ n < s.tick ∧ timeMove s n = .done (.refused .timeDecreased)) ∨
    ((s.busy = true → s.tick ≤ n) ∧ timeMove s n = .done (.next (s.setTime n))) := by
  unfold timeMove
  split
  · rename_i h
    exact .inl ⟨h.1, h.2, rfl⟩
  · rename_i h
    exact .inr ⟨fun hb => Nat.le_of_not_lt fun hn => h ⟨hb, hn⟩, rfl⟩

/-- Another agent on the transport runs no instruction; the run is refused if an operation runs. -/
theorem otherAgentMove_cases (s : State) :
    (s.busy = true ∧ otherAgentMove s = .done (.refused .transportShared)) ∨
    (s.busy = false ∧ otherAgentMove s = .done (.next s)) := by
  unfold otherAgentMove
  cases s.busy <;> simp

theorem step_inv {s t : State} (h : step s = .next t) : Stepped s t := by
  unfold step nextMove at h
  split at h
  · rename_i i u hm
    split at hm
    · rename_i a rest hi
      unfold hostMove at hm
      split at hm
      · rename_i j hf
        cases hm
        exact .host a rest _ hi hf h
      · cases hm
    · cases hm
    · rename_i n rest hi
      rcases timeMove_cases { s with inbox := rest } n with ⟨_, _, e⟩ | ⟨_, e⟩ <;> rw [e] at hm <;> cases hm
    · rename_i rest hi
      rcases otherAgentMove_cases { s with inbox := rest } with ⟨_, e⟩ | ⟨_, e⟩ <;> rw [e] at hm <;> cases hm
    · cases hm
    · rename_i a rest hi
      split at hm
      · rename_i m ho
        exact ownMove_cases ho (by subst hm; exact h)
      · rename_i ho
        unfold answerMove at hm
        split at hm
        · rename_i r p hr hs
          split at hm
          · rename_i hfit
            split at hm
            · rename_i j hw
              cases hm
              exact .wire a rest r p _ hi hr hs ho hfit hw h
            · cases hm
          · cases hm
        · cases hm
    · split at hm
      · rename_i m ho
        exact ownMove_cases ho (by subst hm; exact h)
      · split at hm
        · cases hm
        · split at hm <;> cases hm
  · rename_i o hm
    split at hm
    · rename_i a rest hi
      unfold hostMove at hm
      split at hm
      · cases hm
      · cases hm
        cases h
    · rename_i rest hi
      cases hm
      exact .reset rest hi (by simpa using h.symm)
    · rename_i n rest hi
      rcases timeMove_cases { s with inbox := rest } n with ⟨_, _, e⟩ | ⟨hn, e⟩ <;> rw [e] at hm <;> cases hm
      · cases h
      · exact .time n rest hi hn (by simpa using h.symm)
    · rename_i rest hi
      rcases otherAgentMove_cases { s with inbox := rest } with ⟨_, e⟩ | ⟨hb, e⟩ <;> rw [e] at hm <;> cases hm
      · cases h
      · exact .otherAgent rest hi hb (by simpa using h.symm)
    · rename_i a rest hi
      cases hm
      exact .stale a rest hi (by simpa using h.symm)
    · rename_i a rest hi
      split at hm
      · rename_i m ho
        exact ownMove_cases ho (by subst hm; exact h)
      · rename_i ho
        unfold answerMove at hm
        split at hm
        · rename_i r p hr hs
          split at hm
          · rename_i hfit
            split at hm
            · cases hm
            · rename_i hw
              cases hm
              exact .answer a rest r p hi hr hs ho hfit hw (by simpa using h.symm)
          · rename_i hfit
            cases hm
            exact .dropped a rest hi ho (.inr (.inr ⟨r, hr, by simpa using hfit⟩)) (by simpa using h.symm)
        · rename_i hno
          cases hm
          refine .dropped a rest hi ho ?_ (by simpa using h.symm)
          cases hr : s.req with
          | none => exact .inl rfl
          | some r =>
            cases hs : s.seq with
            | idle => exact .inr (.inl rfl)
            | run p => exact absurd hs (fun hs => hno r p hr hs)
    · rename_i hi
      split at hm
      · rename_i m ho
        exact ownMove_cases ho (by subst hm; exact h)
      · rename_i ho
        split at hm
        · rename_i e es hc
          cases hm
          exact .again hi ho (by simp [hc]) (by cases h; rw [hc])
        · split at hm
          · rename_i hs
            cases hm
            exact .waits hi hs (by simpa using h.symm)
          · cases hm
            cases h

/-- The move of an answer that fits its request and completes no wire row. -/
theorem answerMove_fits {s : State} {a : Answer} {r : Request} {p : Point} (hr : s.req = some r)
    (hs : s.seq = .run p) (hfit : r.fits a = true) (hw : fetchWire s p a = none) :
    answerMove s a = .done (.next ({ s with req := none }.onAnswer p a)) := by
  unfold answerMove
  rw [hr, hs]
  simp [hfit, hw]

/-- The move of an answer that the request outstanding cannot have: it is dropped. -/
theorem answerMove_drops {s : State} {a : Answer} {r : Request} (hr : s.req = some r)
    (hf : r.fits a = false) : answerMove s a = .done (.next s) := by
  unfold answerMove
  cases hs : s.seq <;> simp [hr, hf]

/-- An answer that fits its request and completes no wire row moves the sequencer on. -/
theorem step_answer {s : State} {a : Answer} {rest : List Event} {r : Request} {p : Point}
    (hi : s.inbox = .answer a :: rest) (hr : s.req = some r) (hs : s.seq = .run p)
    (ho : ownMove s = none) (hfit : r.fits a = true)
    (hw : fetchWire { s with inbox := rest } p a = none) :
    step s = .next ({ s with inbox := rest, req := none }.onAnswer p a) := by
  have hm := answerMove_fits (s := { s with inbox := rest }) hr hs hfit hw
  unfold step nextMove
  rw [hi, ho]
  simp only [hm]

/-- A chunk with more to come, answered `ok`: its bytes land and the next chunk is requested (R200). -/
theorem step_chunk_next {s : State} {x : Xfer} {c : Nat} {str bs : List Byte} {rest : List Event}
    (hi : s.inbox = .answer (.ok bs) :: rest) (hr : s.req = some (.bulk str))
    (hs : s.seq = .run (.xfer x c)) (hl : bs.length = str.length) (hm : s.moreChunks x c = true) :
    step s = .next (({ s with inbox := rest, req := none }.land x c bs).beginChunk x
      (x.outgoing ({ s with inbox := rest, req := none }.land x c bs)) (c + 1)) := by
  have hm' : ∀ t : State, t.params = s.params → t.lLen = s.lLen → t.moreChunks x c = true := by
    intro t hp hL
    have := hm
    rw [State.moreChunks] at this ⊢
    rwa [hp, size_congr x hp hL]
  have hw : fetchWire { s with inbox := rest } (.xfer x c) (.ok bs) = none := by
    cases x <;> simp [fetchWire]
    intro _ h
    rw [hm' { s with inbox := rest } rfl rfl] at h
    cases h
  rw [step_answer hi hr hs (by simp [ownMove, hs]) (by simp [Request.fits, hl]) hw]
  obtain ⟨resp, data, e⟩ := land_keeps { s with inbox := rest, req := none } x c bs
  simp only [State.onAnswer]
  rw [if_pos (hm' _ (by rw [e]) (by rw [e]))]

end Sys2Proof.Machine
end

