-- ==== Sys2Proof/Laws/Invariant.lean ====
section
/-! SUPPORT. Each kind of move keeps the block's invariant: one lemma per shared operation and per kind of
move, over `Running`, what holds wherever an operation runs. -/

namespace Sys2Proof.Machine

/-- What holds wherever an operation `op` runs, the sequencer's point aside. -/
structure Running (s : State) (op : Op) : Prop where
  params : s.params.wf
  data : s.data.wf = true
  wcopy : s.wcopy.wf = true
  busy : s.busy = true
  done : s.done = false
  err : s.err = .none
  detail : s.detail = .none
  bracket : csBracket s.wire = some s.csOwned
  bulks : ∀ str, .bulk str ∈ s.wire → 1 ≤ str.length ∧ str.length ≤ s.params.chunkSize
  latched : opOfCode s.lOp = some op
  length : op = .sendCmd → legalLen s.lLen = true
  time : s.now < 2 ^ s.params.timeWidth ∧ s.t0 < 2 ^ s.params.timeWidth ∧
    s.t0Init < 2 ^ s.params.timeWidth

/-- FRAME and INITST in a command exchange (R34, R229). -/
def Exchanging (s : State) (w : Cmd) : Prop :=
  s.frame = buildFrame (w.idx s) (w.arg s) ∧ ∀ i, w.initState = some i → s.initst = i

/-- Ending an operation with chip-select released and nothing outstanding keeps the invariant (R134). -/
theorem Running.endOp {s op} (h : Running s op) (ho : s.csOwned = false) (hr : s.req = none)
    (d : Detail) : (s.endOp d).Inv where
  params := h.params
  data := h.data
  wcopy := h.wcopy
  busy := by simp
  running := by simp
  errDetail := rfl
  owned := rfl
  bracket := by have := h.bracket; rw [ho] at this; simpa using this
  request := by simp [Seq.waitsFor, hr]
  inRange := by simp
  bulks := h.bulks
  latched := by simp
  length := by simp
  frame := by simp
  cause := by simp
  initst := by simp
  time := h.time

/-- The invariant from what holds wherever the operation runs and what its point adds. -/
theorem Running.inv {s op} (h : Running s op) (p : Point) (hs : s.seq = .run p) (hop : p.op = op)
    (ho : s.csOwned = (Seq.run p).owns) (hr : s.req = (Seq.run p).waitsFor s)
    (hin : ∀ x c, p = .xfer x c → c * s.params.chunkSize < x.size s)
    (hc : ∀ w, p.cmd? = some w → Exchanging s w)
    (hf : ∀ o d, p = .failCs o d → d ∈ o.causes := by simp) : s.Inv where
  params := h.params
  data := h.data
  wcopy := h.wcopy
  busy := by simp [h.busy, hs]
  running := fun _ => ⟨h.done, h.err, h.detail⟩
  errDetail := by rw [h.err, h.detail]; rfl
  owned := by rw [hs, ho]
  bracket := h.bracket
  request := by rw [hs, hr]
  inRange := by intro x c e; rw [hs] at e; cases e; exact hin x c rfl
  bulks := h.bulks
  latched := by intro q e; rw [hs] at e; cases e; rw [hop, h.latched]
  length := by intro q e e2; rw [hs] at e; cases e; exact h.length (hop ▸ e2)
  frame := by intro q w e e2; rw [hs] at e; cases e; exact (hc w e2).1
  cause := by intro o d e; rw [hs] at e; cases e; exact hf o d rfl
  initst := by intro q w i e e2; rw [hs] at e; cases e; exact (hc w e2).2 i
  time := h.time

theorem State.Inv.toRunning {s : State} (h : s.Inv) {p} (hs : s.seq = .run p) : Running s p.op := by
  have hb : s.busy = true := h.busy.2 (by simp [hs])
  obtain ⟨h1, h2, h3⟩ := h.running hb
  exact ⟨h.params, h.data, h.wcopy, hb, h1, h2, h3, h.bracket, h.bulks, h.latched p hs, h.length p hs, h.time⟩

theorem exchanging_congr {s t : State} {w} (h : Exchanging s w) (hf : t.frame = s.frame)
    (hi : t.initst = s.initst)
    (h1 : t.lIdx = s.lIdx) (h2 : t.lArg = s.lArg) : Exchanging t w := by
  refine ⟨?_, ?_⟩
  · rw [hf, h.1, idx_congr w h1, arg_congr w h2]
  · rw [hi]; exact h.2

/-- Requesting CS_ASSERT outside a bracket keeps the invariant (R202). -/
theorem Running.beginCsOn {s op} (h : Running s op) (ho : s.csOwned = false) (b : Exchange)
    (hop : b.op = op)
    (hc : ∀ w, b = .cmd w → Exchanging s w) : (s.beginCsOn b).Inv := by
  have hb : csBracket s.wire = some false := by rw [h.bracket, ho]
  have hm : Running (s.beginCsOn b) op := by
    refine ⟨h.params, h.data, h.wcopy, h.busy, h.done, h.err, h.detail, ?_, ?_, h.latched, h.length, h.time⟩
    · simp [csBracket, hb]
    · simpa using h.bulks
  refine hm.inv (.csOn b) (by simp) hop rfl rfl (by simp) ?_
  intro w hw
  cases b <;> simp [Point.cmd?] at hw
  subst hw
  exact exchanging_congr (hc _ rfl) rfl rfl rfl rfl

/-- Requesting CS_DEASSERT inside a bracket keeps the invariant (R203). -/
theorem Running.beginCsOff {s op} (h : Running s op) (ho : s.csOwned = true) (b : Exchange)
    (hop : b.op = op)
    (hc : ∀ w, b = .cmd w → Exchanging s w) : (s.beginCsOff b).Inv := by
  have hb : csBracket s.wire = some true := by rw [h.bracket, ho]
  have hm : Running (s.beginCsOff b) op := by
    refine ⟨h.params, h.data, h.wcopy, h.busy, h.done, h.err, h.detail, ?_, ?_, h.latched, h.length, h.time⟩
    · simp [csBracket, hb]
    · simpa using h.bulks
  refine hm.inv (.csOff b) (by simp) hop rfl rfl (by simp) ?_
  intro w hw
  cases b <;> simp [Point.cmd?] at hw
  subst hw
  exact exchanging_congr (hc _ rfl) rfl rfl rfl rfl

theorem xferFail_cause (op : Op) : .xferFail ∈ op.causes := by cases op <;> simp [Op.causes]

theorem csAssertFail_cause (op : Op) : .csAssertFail ∈ op.causes := by cases op <;> simp [Op.causes]

theorem csDeassertFail_cause (op : Op) : .csDeassertFail ∈ op.causes := by cases op <;> simp
    [Op.causes]

theorem timeoutDetail_cause (k : PollKind) : k.timeoutDetail ∈ k.op.causes := by
  cases k with
  | r1 w => cases w <;> simp [PollKind.op, PollKind.timeoutDetail, Cmd.op, Op.causes]
  | token => simp [PollKind.op, PollKind.timeoutDetail, Op.causes]
  | wbusy => simp [PollKind.op, PollKind.timeoutDetail, Op.causes]

/-- The failure path keeps the invariant (R285). -/
theorem Running.raise {s op} (h : Running s op) {p} (hs : s.seq = .run p) (hop : p.op = op)
    (hr : s.req = none) {d : Detail}
    (hd : d ∈ op.causes) : (s.raise d).Inv := by
  cases ho : s.csOwned with
  | false => rw [raise_not_owned ho]; exact h.endOp ho hr d
  | true =>
    rw [raise_owned hs ho]
    have hb : csBracket s.wire = some true := by rw [h.bracket, ho]
    have hm : Running (({ s with csOwned := false }.issue .csDeassert).goto (.failCs p.op d)) op := by
      refine ⟨h.params, h.data, h.wcopy, h.busy, h.done, h.err, h.detail, ?_, ?_, h.latched, h.length, h.time⟩
      · simp [csBracket, hb]
      · simpa using h.bulks
    exact hm.inv _ rfl hop rfl rfl (by simp) (by simp [Point.cmd?]) (by intro o e h; cases h; rw [hop]; exact hd)

/-- Requesting a chunk keeps the invariant (R200). -/
theorem Running.beginChunk {s op} (h : Running s op) (x : Xfer) (c : Nat)
    (ho : s.csOwned = (Seq.run (.xfer x c)).owns) (hop : x.op = op)
    (hin : c * s.params.chunkSize < x.size s)
    (hc : ∀ w, (x = .frame w ∨ x = .rest w) → Exchanging s w) :
    (s.beginChunk x (x.outgoing s) c).Inv := by
  have hm : Running (s.beginChunk x (x.outgoing s) c) op := by
    refine ⟨h.params, h.data, h.wcopy, h.busy, h.done, h.err, h.detail, ?_, ?_, h.latched, h.length, h.time⟩
    · simpa [csBracket] using h.bracket
    · intro str hstr
      simp only [beginChunk_wire, List.mem_cons, Request.bulk.injEq] at hstr
      rcases hstr with rfl | hstr
      · exact chunk_bounds h.params.1 (by rw [outgoing_length]; exact hin)
      · exact h.bulks str hstr
  refine hm.inv (.xfer x c) (by simp) hop (by simpa using ho) ?_ ?_ ?_
  · simp only [beginChunk_req, Seq.waitsFor, beginChunk_params]
    rw [outgoing_congr (s := s) (t := s.beginChunk x (x.outgoing s) c) x rfl rfl rfl rfl rfl]
  · intro y d e; cases e
    rw [size_congr (s := s) (t := s.beginChunk x (x.outgoing s) c) x rfl rfl]
    exact hin
  · intro w hw
    refine exchanging_congr (hc w ?_) rfl rfl rfl rfl
    cases x <;> simp_all [Point.cmd?]

/-- Requesting a poll byte keeps the invariant (R204). -/
theorem Running.beginPoll {s op} (h : Running s op) (k : PollKind) (ho : s.csOwned = true)
    (hop : k.op = op)
    (hc : ∀ w, k = .r1 w → Exchanging s w) : (s.beginPoll k).Inv := by
  have hm : Running (s.beginPoll k) op := by
    refine ⟨h.params, h.data, h.wcopy, h.busy, h.done, h.err, h.detail, ?_, ?_, h.latched, h.length, h.time⟩
    · simpa [csBracket] using h.bracket
    · intro str hstr
      simp only [beginPoll_wire, List.mem_cons, Request.bulk.injEq] at hstr
      rcases hstr with rfl | hstr
      · exact ⟨Nat.le_refl _, h.params.1⟩
      · exact h.bulks str hstr
  refine hm.inv (.poll k) (by simp) hop (by simp [Seq.owns, ho]) rfl (by simp) ?_
  intro w hw
  refine exchanging_congr (hc w ?_) rfl rfl rfl rfl
  cases k <;> simp_all [Point.cmd?]

/-- BuildFrame keeps the invariant (R170). -/
theorem Running.enterCmd {s op} (h : Running s op) (w : Cmd) (ho : s.csOwned = false)
    (hop : w.op = op) (hr : s.req = none)
    (hi : ∀ i, w.initState = some i → s.initst = i) : (s.enterCmd w).Inv := by
  have hm : Running (s.enterCmd w) op :=
    ⟨h.params, h.data, h.wcopy, h.busy, h.done, h.err, h.detail, h.bracket, h.bulks, h.latched, h.length, h.time⟩
  refine hm.inv (.issueCmd w) (by simp) hop (by simp [Seq.owns, ho]) (by simp [Seq.waitsFor, hr]) (by simp) ?_
  intro v hv
  simp [Point.cmd?] at hv
  subst hv
  exact ⟨by simp only [enterCmd_frame]; rw [idx_congr (s := s) (t := s.enterCmd w) _ rfl, arg_congr (s := s) (t := s.enterCmd w) _ rfl], hi⟩

/-- Starting a chunked transfer keeps the invariant (R200). -/
theorem Running.beginXfer {s op} (h : Running s op) (x : Xfer)
    (ho : s.csOwned = (Seq.run (.xfer x 0)).owns) (hop : x.op = op)
    (hin : 0 < x.size s)
    (hc : ∀ w, (x = .frame w ∨ x = .rest w) → Exchanging s w) : (s.beginXfer x).Inv :=
  h.beginChunk x 0 ho hop (by simpa using hin) hc

/-- A poll byte that does not match keeps the invariant (R204). -/
theorem Running.pollMiss {s op} (h : Running s op) (k : PollKind) (hs : s.seq = .run (.poll k))
    (ho : s.csOwned = true)
    (hop : k.op = op) (hr : s.req = none) (hc : ∀ w, k = .r1 w → Exchanging s w) :
    (s.pollMiss k).Inv := by
  rcases pollMiss_cases s k with ⟨_, e⟩ | ⟨_, e⟩ <;> rw [e]
  · exact h.raise hs hop hr (hop ▸ timeoutDetail_cause k)
  · exact h.beginPoll k ho hop hc

/-- What `Running` does not read may change. -/
theorem Running.congr {s t op} (h : Running s op) (h0 : t.params = s.params) (h1 : t.data.wf = true)
    (h2 : t.wcopy.wf = true) (h3 : t.busy = s.busy) (h4 : t.done = s.done) (h5 : t.err = s.err)
    (h6 : t.detail = s.detail) (h7 : t.wire = s.wire) (h8 : t.csOwned = s.csOwned)
    (h9 : t.lOp = s.lOp)
    (h10 : t.lLen = s.lLen) (h11 : t.now < 2 ^ s.params.timeWidth)
    (h12 : t.t0 < 2 ^ s.params.timeWidth)
    (h13 : t.t0Init < 2 ^ s.params.timeWidth) : Running t op :=
  ⟨h0 ▸ h.params, h1, h2, h3 ▸ h.busy, h4 ▸ h.done, h5 ▸ h.err, h6 ▸ h.detail, by rw [h7, h8, h.bracket],
   by rw [h7, h0]; exact h.bulks, by rw [h9, h.latched], by rw [h10]; exact h.length, by rw [h0]; exact ⟨h11, h12, h13⟩⟩

/-- A chunk that fails keeps DATA in canonical form (R252). -/
theorem lose_data_wf (s : State) (x : Xfer) (c : Nat) (h : s.data.wf = true)
    (hin : c * s.params.chunkSize < x.size s) :
    (s.lose x c).data.wf = true := by
  cases x <;> try exact h
  simp only [State.lose, draw_data]
  refine putData_wf h ?_
  rw [freeBytes_length]
  simp only [Xfer.size, Config.blockSize] at *
  omega

/-- A chunk that lands keeps DATA in canonical form (R252). -/
theorem land_data_wf (s : State) (x : Xfer) (c : Nat) (bs) (h : s.data.wf = true)
    (hin : c * s.params.chunkSize < x.size s)
    (hl : bs.length = (chunk s.params.chunkSize (x.outgoing s) c).length) :
    (s.land x c bs).data.wf = true := by
  cases x <;> try exact h
  refine putData_wf h ?_
  rw [hl, chunk_length, outgoing_length]
  simp only [Xfer.size, Config.blockSize] at *
  omega

/-- What follows a transfer keeps the invariant (R171, R220, R251, R256). -/
theorem Running.afterXfer {s op} (h : Running s op) (x : Xfer)
    (ho : s.csOwned = (Seq.run (.xfer x 0)).owns) (hop : x.op = op)
    (hr : s.req = none)
    (hc : ∀ w, (x = .frame w ∨ x = .rest w) → Exchanging s w) : (s.afterXfer x).Inv := by
  cases x with
  | powerUp =>
    refine (h.congr (t := { s with initst := .reset }) rfl h.data h.wcopy rfl rfl rfl rfl rfl rfl rfl rfl h.time.1 h.time.2.1 h.time.2.2).enterCmd .cmd0 ho hop hr ?_
    intro i hi; simp [Cmd.initState] at hi; exact hi
  | frame w => exact h.beginPoll _ ho hop (by intro v e; cases e; exact hc _ (.inl rfl))
  | rest w => exact h.beginCsOff ho _ hop (by intro v e; cases e; exact hc _ (.inr rfl))
  | block => exact h.beginXfer _ ho hop (by simp [Xfer.size, Config.crcLen]) (by simp)
  | readCrc => exact h.beginXfer _ ho hop (by simp [Xfer.size, Config.padLen]) (by simp)
  | readPad => exact h.beginCsOff ho _ hop (by simp)
  | token => exact h.beginXfer _ ho hop (by simp [Xfer.size, Config.blockSize]) (by simp)
  | copy => exact h.beginXfer _ ho hop (by simp [Xfer.size, Config.crcLen]) (by simp)
  | dummyCrc =>
    exact (h.congr (t := { s with t0 := s.now }) rfl h.data h.wcopy rfl rfl rfl rfl rfl rfl rfl rfl h.time.1 h.time.1 h.time.2.2).beginPoll _ ho hop (by simp)
  | writePad => exact h.beginCsOff ho _ hop (by simp)

/-- What follows a command exchange keeps the invariant (R178, R229, R251, R256). -/
theorem Running.afterCmd {s op} (h : Running s op) (w : Cmd) {p} (hs : s.seq = .run p)
    (hp : p.op = op) (ho : s.csOwned = false) (hop : w.op = op)
    (hr : s.req = none) (hc : Exchanging s w) : (s.afterCmd w).Inv := by
  have hraise := fun {d} (hd : d ∈ w.op.causes) => h.raise hs hp hr (d := d) (hop ▸ hd)
  cases w with
  | user => exact h.endOp ho hr _
  | cmd0 =>
    simp only [State.afterCmd]; split
    · refine (h.congr (t := { s with initst := .ifcheck }) rfl h.data h.wcopy rfl rfl rfl rfl rfl rfl rfl rfl h.time.1 h.time.2.1 h.time.2.2).enterCmd .cmd8 ho hop hr ?_
      intro i hi; simp [Cmd.initState] at hi; exact hi
    · exact hraise (by simp [Cmd.op, Op.causes])
  | cmd8 =>
    simp only [State.afterCmd]; split
    · exact hraise (by simp [Cmd.op, Op.causes])
    · split
      · exact hraise (by simp [Cmd.op, Op.causes])
      · refine (h.congr (t := { s with initst := .voltneg, t0Init := s.now }) rfl h.data h.wcopy rfl rfl rfl rfl rfl rfl rfl rfl h.time.1 h.time.2.1 h.time.1).enterCmd .cmd55 ho hop hr ?_
        intro i hi; simp [Cmd.initState] at hi; exact hi
  | cmd55 =>
    simp only [State.afterCmd]; split
    · refine h.enterCmd .acmd41 ho hop hr ?_
      intro i hi; exact hc.2 i hi
    · exact hraise (by simp [Cmd.op, Op.causes])
  | acmd41 =>
    simp only [State.afterCmd]; split
    · exact (h.congr (t := { s with initst := .ready }) rfl h.data h.wcopy rfl rfl rfl rfl rfl rfl rfl rfl h.time.1 h.time.2.1 h.time.2.2).endOp ho hr _
    · split
      · exact hraise (by simp [Cmd.op, Op.causes])
      · refine h.enterCmd .cmd55 ho hop hr ?_
        intro i hi; exact hc.2 i hi
  | cmd17 =>
    simp only [State.afterCmd]; split
    · exact h.beginCsOn ho _ hop (by simp)
    · exact hraise (by simp [Cmd.op, Op.causes])
  | cmd24 =>
    simp only [State.afterCmd]; split
    · exact h.beginCsOn ho _ hop (by simp)
    · exact hraise (by simp [Cmd.op, Op.causes])

/-- A write of an idle block's registers keeps the invariant. -/
theorem State.Inv.idle_write {s t : State} (h : s.Inv) (hs : s.seq = .idle) (hs' : t.seq = .idle)
    (h0 : t.params = s.params) (h1 : t.data.wf = true)
    (h2 : t.wcopy = s.wcopy) (h3 : t.busy = s.busy) (h5 : t.err = t.detail.kind)
    (h7 : t.wire = s.wire) (h8 : t.csOwned = s.csOwned) (hr : t.req = s.req)
    (h11 : t.now = s.now) (h12 : t.t0 = s.t0) (h13 : t.t0Init = s.t0Init) : t.Inv := by
  have hb : s.busy = false := by
    cases e : s.busy with
    | false => rfl
    | true => exact absurd hs (h.busy.1 e)
  have ho : s.csOwned = false := by rw [h.owned, hs]; rfl
  exact {
    params := h0 ▸ h.params
    data := h1
    wcopy := h2 ▸ h.wcopy
    busy := by rw [h3, hb, hs']; simp
    running := by rw [h3, hb]; simp
    errDetail := h5
    owned := by rw [h8, ho, hs']; rfl
    bracket := by rw [h7, h8]; exact h.bracket
    request := by rw [hr, hs', h.request, hs]; rfl
    inRange := by simp [hs']
    bulks := by rw [h7, h0]; exact h.bulks
    latched := by simp [hs']
    length := by simp [hs']
    frame := by simp [hs']
    cause := by simp [hs']
    initst := by simp [hs']
    time := by rw [h0, h11, h12, h13]; exact h.time }

/-- What the invariant does not read may change. -/
theorem State.Inv.same {s t : State} (h : s.Inv)
    (h0 : t.params = s.params) (h1 : t.data = s.data)
    (h2 : t.wcopy = s.wcopy) (h3 : t.busy = s.busy) (h4 : t.done = s.done) (h5 : t.err = s.err)
    (h6 : t.detail = s.detail)
    (h7 : t.wire = s.wire) (h8 : t.csOwned = s.csOwned) (hr : t.req = s.req)
    (h11 : t.now < 2 ^ s.params.timeWidth) (h12 : t.t0 = s.t0) (h13 : t.t0Init = s.t0Init)
    (e1 : t.seq = s.seq) (e2 : t.lOp = s.lOp) (e3 : t.lLen = s.lLen) (e4 : t.frame = s.frame)
    (e5 : t.lIdx = s.lIdx) (e6 : t.lArg = s.lArg)
    (e7 : t.initst = s.initst) (e8 : t.dataEpoch = s.dataEpoch) : t.Inv := by
  exact {
    params := h0 ▸ h.params
    data := h1 ▸ h.data
    wcopy := h2 ▸ h.wcopy
    busy := by rw [h3, e1]; exact h.busy
    running := by rw [h3, h4, h5, h6]; exact h.running
    errDetail := by rw [h5, h6]; exact h.errDetail
    owned := by rw [h8, e1]; exact h.owned
    bracket := by rw [h7, h8]; exact h.bracket
    request := by
      rw [hr, e1, h.request]
      rcases s.seq with _ | p
      · rfl
      · cases p with
        | xfer x c =>
          simp only [Seq.waitsFor]
          rw [outgoing_congr x h0 e3 e4 h2 e8, h0]
        | _ => rfl
    inRange := by intro x c e; rw [size_congr x h0 e3, h0]; exact h.inRange x c (e1 ▸ e)
    bulks := by rw [h7, h0]; exact h.bulks
    latched := by rw [e1, e2]; exact h.latched
    length := by rw [e1, e3]; exact h.length
    frame := by
      intro p w e e'
      rw [idx_congr w e5, arg_congr w e6, e4]
      exact h.frame p w (e1 ▸ e) e'
    cause := by rw [e1]; exact h.cause
    initst := by rw [e1, e7]; exact h.initst
    time := by rw [h0, h12, h13]; exact ⟨h11, h.time.2⟩ }

theorem State.Inv.hostWrite {s d t : State} (h : s.Inv) (he : hostWrite s d = .next t)
    (hd : s.seq = .idle → d.Inv) : t.Inv := by
  unfold Sys2Proof.Machine.hostWrite at he
  split at he
  · cases he
    exact h.same rfl rfl rfl rfl rfl rfl rfl rfl rfl rfl h.time.1 rfl rfl rfl rfl rfl rfl rfl rfl rfl rfl
  · rename_i hb
    cases he
    apply hd
    by_contra hne
    exact hb (h.busy.2 hne)

/-- CTRL_GO keeps the invariant (R132, R133). -/
theorem State.Inv.ctrlGo {s t : State} (h : s.Inv) {op} (he : ctrlGo op s = .next t) : t.Inv := by
  unfold Sys2Proof.Machine.ctrlGo at he
  split at he
  · cases he
    exact h.same rfl rfl rfl rfl rfl rfl rfl rfl rfl rfl h.time.1 rfl rfl rfl rfl rfl rfl rfl rfl rfl rfl
  · rename_i hb
    have hs : s.seq = .idle := by
      by_contra hne
      exact hb (h.busy.2 hne)
    have hbf : s.busy = false := by simpa using hb
    have ho : s.csOwned = false := by rw [h.owned, hs]; rfl
    have hr : s.req = none := by rw [h.request, hs]; rfl
    have key : ∀ d, ((s.latch op).endOp d).Inv := by
      intro d
      exact h.idle_write hs rfl rfl h.data rfl hbf.symm rfl rfl ho.symm rfl rfl rfl rfl
    split at he
    · cases he; exact key _
    · rename_i o hop
      split at he
      · cases he; exact key _
      · rename_i hlen
        cases he
        have hm : Running ((s.latch op).launch o) o := by
          refine ⟨h.params, h.data, h.wcopy, rfl, rfl, rfl, rfl, ?_, h.bulks, hop, ?_, h.time⟩
          · have := h.bracket; rw [ho] at this; exact this
          · intro e; simpa [e] using hlen
        exact hm.inv (.start o) rfl rfl rfl (by simp [Seq.waitsFor, hr]) (by simp) (by simp [Point.cmd?])

/-- A host access keeps the invariant. -/
theorem State.Inv.host {s t : State} (h : s.Inv) {i : Instr} (hi : i.format = .hostAccess)
    (he : exec i s = .next t) : t.Inv := by
  have id_w : ∀ d : State, Sys2Proof.Machine.hostWrite s d = .next t → d.params = s.params → d.data.wf = true → d.wcopy = s.wcopy → d.busy = s.busy →
        d.err = s.err → d.detail = s.detail → d.wire = s.wire → d.csOwned = s.csOwned → d.req = s.req → d.now = s.now → d.t0 = s.t0 → d.t0Init = s.t0Init → d.seq = s.seq → t.Inv := by
    intro d hh a1 a2 a3 a4 a5 a6 a7 a8 a9 a10 a11 a12 a13
    exact h.hostWrite hh fun hs => h.idle_write hs (a13 ▸ hs) a1 a2 a3 a4 (by rw [a5, a6]; exact h.errDetail) a7 a8 a9 a10 a11 a12
  have same : (.next s : Host.Outcome State Fault Refusal) = .next t → t.Inv := by intro e; cases e; exact h
  cases i with
  | hostRead off =>
      have he : execHostRead off s = .next t := he
      have k : ∀ r n, ({ s with rdata := r, draws := n } : State).Inv := fun r n =>
        h.same rfl rfl rfl rfl rfl rfl rfl rfl rfl rfl h.time.1 rfl rfl rfl rfl rfl rfl rfl rfl rfl rfl
      rw [execHostRead_next he]
      exact k _ _
  | sendCmd => exact State.Inv.ctrlGo (op := 1#3) h he
  | init => exact State.Inv.ctrlGo (op := 2#3) h he
  | readBlock => exact State.Inv.ctrlGo (op := 3#3) h he
  | writeBlock => exact State.Inv.ctrlGo (op := 4#3) h he
  | opReserved0 => exact State.Inv.ctrlGo (op := 0#3) h he
  | opReserved5 => exact State.Inv.ctrlGo (op := 5#3) h he
  | opReserved6 => exact State.Inv.ctrlGo (op := 6#3) h he
  | opReserved7 => exact State.Inv.ctrlGo (op := 7#3) h he
  | wrCmd _ => exact id_w _ he rfl h.data rfl rfl rfl rfl rfl rfl rfl rfl rfl rfl rfl
  | wrArg _ => exact id_w _ he rfl h.data rfl rfl rfl rfl rfl rfl rfl rfl rfl rfl rfl
  | wrResplen _ => exact id_w _ he rfl h.data rfl rfl rfl rfl rfl rfl rfl rfl rfl rfl rfl
  | crcSet _ => exact id_w _ he rfl h.data rfl rfl rfl rfl rfl rfl rfl rfl rfl rfl rfl
  | crcFeed _ => exact id_w _ he rfl h.data rfl rfl rfl rfl rfl rfl rfl rfl rfl rfl rfl
  | wrData k b0 b1 b2 b3 =>
    have hk : 4 * k.toNat + [b0, b1, b2, b3].length ≤ Config.blockSize := by
      have := k.isLt
      simp only [Config.blockSize, List.length_cons, List.length_nil]; omega
    exact id_w _ he rfl (putData_wf h.data hk) rfl rfl rfl rfl rfl rfl rfl rfl rfl rfl rfl
  | wrIgnoredStatus => exact same he
  | wrIgnoredAcmd41cnt => exact same he
  | wrIgnoredWresp => exact same he
  | wrIgnoredPayload => exact same he
  | wrIgnoredR1stat => exact same he
  | wrIgnoredRsv02C => exact same he
  | wrIgnoredRsv030To03C _ => exact same he
  | wrIgnoredResp _ => exact same he
  | wrIgnoredFrame060To07C _ => exact same he
  | wrIgnoredRsv080To0FC _ => exact same he
  | wrIgnoredRsv100To1FC _ => exact same he
  | cmdn _ _ _ => cases hi
  | cmd0 => cases hi
  | cmd8 => cases hi
  | cmd55 => cases hi
  | acmd41 => cases hi
  | cmd17 _ _ => cases hi
  | cmd24 _ _ => cases hi
  | r1 _ _ => cases hi
  | r1Payload _ _ _ => cases hi
  | dataStart => cases hi
  | writeStatus _ => cases hi

/-- Taking an input from the inbox keeps the invariant. -/
theorem State.Inv.inbox {s : State} (h : s.Inv) (l) : ({ s with inbox := l } : State).Inv := by
  have hw : ∀ q, Seq.waitsFor { s with inbox := l } q = Seq.waitsFor s q := by
    intro q; rcases q with _ | p
    · rfl
    · cases p <;> rfl
  exact {
    params := h.params
    data := h.data
    wcopy := h.wcopy
    busy := h.busy
    running := h.running
    errDetail := h.errDetail
    owned := h.owned
    bracket := h.bracket
    request := by rw [hw]; exact h.request
    inRange := by
      intro x c e
      rw [size_congr (s := s) (t := { s with inbox := l }) x rfl rfl]
      exact h.inRange x c e
    bulks := h.bulks
    latched := h.latched
    length := h.length
    frame := by
      intro p w e1 e2
      rw [idx_congr (s := s) (t := { s with inbox := l }) w rfl,
        arg_congr (s := s) (t := { s with inbox := l }) w rfl]
      exact h.frame p w e1 e2
    cause := h.cause
    initst := h.initst
    time := h.time }

/-- A reset gives the invariant (R310). -/
theorem State.Inv.reset {s : State} (h : s.Inv) : s.applyReset.Inv := by
  have h2 : 0 < 2 ^ s.params.timeWidth := Nat.pos_of_neZero _
  exact {
    params := h.params
    data := rfl
    wcopy := rfl
    busy := by simp
    running := by simp
    errDetail := rfl
    owned := rfl
    bracket := rfl
    request := rfl
    inRange := by simp
    bulks := by simp
    latched := by simp
    length := by simp
    frame := by simp
    cause := by simp
    initst := by simp
    time := ⟨h.time.1, h2, h2⟩ }

/-- The first step of an operation keeps the invariant. -/
theorem State.Inv.start {s : State} (h : s.Inv) {op} (hs : s.seq = .run (.start op)) :
    (s.startOp op).Inv := by
  have hm : Running s op := h.toRunning hs
  have ho : s.csOwned = false := by rw [h.owned, hs]; rfl
  have hr : s.req = none := by rw [h.request, hs]; rfl
  cases op with
  | sendCmd => exact hm.enterCmd .user ho rfl hr (by simp [Cmd.initState])
  | init =>
    have hm2 := hm.congr (t := { s with acmd41cnt := 0#32, initst := .powerup }) rfl h.data h.wcopy rfl rfl rfl rfl rfl rfl rfl rfl h.time.1 h.time.2.1 h.time.2.2
    exact hm2.beginXfer .powerUp ho rfl (by have := h.params.2.1; simp only [Xfer.size]; omega) (by simp)
  | readBlock => exact hm.enterCmd .cmd17 ho rfl hr (by simp [Cmd.initState])
  | writeBlock =>
    have hm2 := hm.congr (t := { s with wcopy := s.data, wresp := 0x00#8 }) rfl h.data h.data rfl rfl rfl rfl rfl rfl rfl rfl h.time.1 h.time.2.1 h.time.2.2
    exact hm2.enterCmd .cmd24 ho rfl hr (by simp [Cmd.initState])

theorem State.Inv.exchanging {s : State} (h : s.Inv) {p w} (hs : s.seq = .run p)
    (hw : p.cmd? = some w) : Exchanging s w :=
  ⟨h.frame p w hs hw, fun i => h.initst p w i hs hw⟩

/-- Sending FRAME keeps the invariant (R171). -/
theorem State.Inv.sendFrame {s t u : State} (h : s.Inv) {w} (hs : s.seq = .run (.issueCmd w))
    (hu : u = s ∨ u = { s with acmd41cnt := saturatingSucc s.acmd41cnt })
    (he : sendFrame s.frame u = .next t) : t.Inv := by
  have hm : Running s w.op := h.toRunning hs
  have ho : s.csOwned = false := by rw [h.owned, hs]; rfl
  obtain ⟨w', hw', rfl⟩ := sendFrame_frame he
  have hc := h.exchanging hs rfl
  rcases hu with rfl | rfl
  · rw [hs] at hw'; cases hw'
    have hm2 := hm.congr (t := { u with resp := Vector.replicate 8 0xFF#8, frame := u.frame, t0 := u.now }) rfl h.data h.wcopy rfl rfl rfl rfl rfl rfl rfl rfl h.time.1 h.time.1 h.time.2.2
    exact hm2.beginCsOn ho (.cmd w) rfl (by intro v e; cases e; exact hc)
  · have hw' : s.seq = _ := hw'
    rw [hs] at hw'; cases hw'
    have hm2 := hm.congr (t := { s with acmd41cnt := saturatingSucc s.acmd41cnt, resp := Vector.replicate 8 0xFF#8, frame := s.frame, t0 := s.now }) rfl h.data h.wcopy rfl rfl rfl rfl rfl rfl rfl rfl h.time.1 h.time.1 h.time.2.2
    exact hm2.beginCsOn ho (.cmd w) rfl (by intro v e; cases e; exact hc)

theorem Running.same {s : State} {op} (hm : Running s op) (l : List Event) (r) : Running
    ({ s with inbox := l, req := r } : State) op :=
  hm.congr rfl hm.data hm.wcopy rfl rfl rfl rfl rfl rfl rfl rfl hm.time.1 hm.time.2.1 hm.time.2.2

/-- A transport answer keeps the invariant. -/
theorem State.Inv.onAnswer {s : State} (h : s.Inv) {p} (hs : s.seq = .run p) (a : Answer) (l) (r)
    (hreq : s.req = some r) (hfit : r.fits a = true) :
   (({ s with inbox := l, req := none } : State).onAnswer p a).Inv := by
  have hm := (h.toRunning hs).same l none
  have ho : s.csOwned = (Seq.run p).owns := by rw [h.owned, hs]
  have hc : ∀ w, p.cmd? = some w → Exchanging ({ s with inbox := l, req := none } : State) w := fun w hw =>
    exchanging_congr (h.exchanging hs hw) rfl rfl rfl rfl
  have hrq : some r = (Seq.run p).waitsFor s := by rw [← hreq, h.request, hs]
  have hin := h.inRange
  generalize hu : ({ s with inbox := l, req := none } : State) = u at *
  have hus : u.seq = .run p := by rw [← hu]; exact hs
  have huo : u.csOwned = (Seq.run p).owns := by rw [← hu]; exact ho
  have hur : u.req = none := by rw [← hu]
  have hin : ∀ x c, p = .xfer x c → c * u.params.chunkSize < x.size u := by
    rintro x c rfl
    have e1 : u.params = s.params := by rw [← hu]
    have e2 : u.lLen = s.lLen := by rw [← hu]
    rw [size_congr x e1 e2, e1]
    exact hin x c hs
  have hch : ∀ x c, p = .xfer x c → r = .bulk (chunk u.params.chunkSize (x.outgoing u) c) := by
    rintro x c rfl
    have e : x.outgoing u = x.outgoing s := by
      rw [← hu]; exact outgoing_congr (s := s) (t := { s with inbox := l, req := none }) x rfl rfl rfl rfl rfl
    have e1 : u.params = s.params := by rw [← hu]
    simp only [Seq.waitsFor] at hrq
    rw [e, e1]; exact Option.some.inj hrq
  clear hu hrq
  have hcs : ∀ v : CsState, Running ({ u with csst := v } : State) p.op := fun v =>
    hm.congr rfl hm.data hm.wcopy rfl rfl rfl rfl rfl rfl rfl rfl hm.time.1 hm.time.2.1 hm.time.2.2
  cases p with
  | csOn b =>
    cases a with
    | ok bs =>
      show ((u.csAssertAnswered true).afterCsOn b).Inv
      cases b with
      | cmd w =>
        exact (hcs .asserted).beginXfer (.frame w) huo rfl (by simp [Xfer.size]) (by rintro v (e|e) <;> cases e; exact exchanging_congr (hc w rfl) rfl rfl rfl rfl)
      | read =>
        have := (hcs .asserted).congr (t := { u with csst := .asserted, t0 := u.now }) rfl hm.data hm.wcopy rfl rfl rfl rfl rfl rfl rfl rfl hm.time.1 hm.time.1 hm.time.2.2
        exact this.beginPoll .token huo rfl (by simp)
      | write =>
        have := (hcs .asserted).congr (t := { u with csst := .asserted, seq := .run .issueToken }) rfl hm.data hm.wcopy rfl rfl rfl rfl rfl rfl rfl rfl hm.time.1 hm.time.2.1 hm.time.2.2
        exact this.inv .issueToken rfl rfl huo hur (by simp) (by simp [Point.cmd?])
    | fail => exact (hcs .unknown).raise (p := .csOn b) hus rfl hur (csAssertFail_cause _)
  | csOff b =>
    cases a with
    | ok bs =>
      show ((u.csDeassertAnswered true).afterCsOff b).Inv
      cases b with
      | cmd w => exact (hcs .deasserted).afterCmd w (p := .csOff (.cmd w)) hus rfl huo rfl hur (exchanging_congr (hc w rfl) rfl rfl rfl rfl)
      | read => exact (hcs .deasserted).endOp huo hur _
      | write => exact (hcs .deasserted).endOp huo hur _
    | fail => exact (hcs .unknown).raise (p := .csOff b) hus rfl hur (csDeassertFail_cause _)
  | failCs op d =>
    cases a with
    | ok bs => exact (hcs .deasserted).endOp huo hur _
    | fail => exact (hcs .unknown).endOp huo hur _
  | xfer x c =>
    cases a with
    | fail =>
      show ((u.lose x c).raise .xferFail).Inv
      have hd := lose_data_wf u x c hm.data (hin x c rfl)
      obtain ⟨resp, data, draws, e⟩ := lose_keeps u x c
      rw [e] at hd ⊢
      have := hm.congr (t := { u with resp := resp, data := data, draws := draws }) rfl hd hm.wcopy rfl rfl rfl rfl rfl rfl rfl rfl hm.time.1 hm.time.2.1 hm.time.2.2
      exact this.raise (p := .xfer x c) hus rfl hur (xferFail_cause _)
    | ok bs =>
      have hl : bs.length = (chunk u.params.chunkSize (x.outgoing u) c).length := by
        have := hch x c rfl; subst this
        simpa [Request.fits] using hfit
      have hd := land_data_wf u x c bs hm.data (hin x c rfl) hl
      obtain ⟨resp, data, e⟩ := land_keeps u x c bs
      simp only [State.onAnswer]
      rw [e] at hd ⊢
      have hm2 := hm.congr (t := { u with resp := resp, data := data }) rfl hd hm.wcopy rfl rfl rfl rfl rfl rfl rfl rfl hm.time.1 hm.time.2.1 hm.time.2.2
      have hcc : ∀ w, (x = .frame w ∨ x = .rest w) → Exchanging ({ u with resp := resp, data := data } : State) w := by
        rintro w (rfl | rfl) <;> exact exchanging_congr (hc w rfl) rfl rfl rfl rfl
      split
      · rename_i hmore
        refine hm2.beginChunk x (c + 1) ?_ rfl ?_ hcc
        · show u.csOwned = _
          rw [huo]; cases x <;> rfl
        · simpa [State.moreChunks] using hmore
      · refine hm2.afterXfer x ?_ rfl hur hcc
        show u.csOwned = _
        rw [huo]; cases x <;> rfl
  | poll k =>
    cases a with
    | fail => exact hm.raise (p := .poll k) hus rfl hur (xferFail_cause _)
    | ok bs => exact hm.pollMiss k hus huo rfl hur (by rintro w rfl; exact hc w rfl)
  | start op =>
    have : r = r := rfl
    exact absurd hreq (by rw [h.request, hs]; simp [Seq.waitsFor])
  | issueCmd w => exact absurd hreq (by rw [h.request, hs]; simp [Seq.waitsFor])
  | issueToken => exact absurd hreq (by rw [h.request, hs]; simp [Seq.waitsFor])

/-- A wire row keeps the invariant. -/
theorem State.Inv.wire {s t : State} (h : s.Inv) {p} (hs : s.seq = .run p) (a : Answer) (l) {i}
   (hw : fetchWire { s with inbox := l } p a = some i)
    (he : exec i { s with inbox := l, req := none } = .next t) : t.Inv := by
  have hm := (h.toRunning hs).same l none
  have ho : s.csOwned = (Seq.run p).owns := by rw [h.owned, hs]
  have hc : ∀ w, p.cmd? = some w → Exchanging ({ s with inbox := l, req := none } : State) w := fun w hw =>
    exchanging_congr (h.exchanging hs hw) rfl rfl rfl rfl
  generalize hu : ({ s with inbox := l, req := none } : State) = u at *
  have hus : u.seq = .run p := by rw [← hu]; exact hs
  have huo : u.csOwned = (Seq.run p).owns := by rw [← hu]; exact ho
  have hur : u.req = none := by rw [← hu]
  have hresp : ∀ r : Vector Byte 8, Running ({ u with resp := r } : State) p.op := fun v =>
    hm.congr rfl hm.data hm.wcopy rfl rfl rfl rfl rfl rfl rfl rfl hm.time.1 hm.time.2.1 hm.time.2.2
  unfold fetchWire at hw
  split at hw
  · rename_i w bs
    match bs, hw with
    | [], hw => simp [decode, Except.toOption] at hw
    | [b], hw =>
      simp only [decode, decodeR1] at hw
      split at hw
      · simp [Except.toOption] at hw
      · simp only [Except.toOption, Option.some.injEq] at hw
        subst hw
        simp only [exec, execR1, hus] at he
        cases he
        unfold State.storeR1
        have hcw := exchanging_congr (t := u.putResp 0 [r1Byte (BitVec.extractLsb' 1 6 b) (BitVec.extractLsb' 0 1 b)]) (hc w rfl) rfl rfl rfl rfl
        dsimp only
        split
        · rename_i hl
          exact (hresp (putAt u.resp 0 [r1Byte (BitVec.extractLsb' 1 6 b) (BitVec.extractLsb' 0 1 b)])).beginXfer (.rest w) huo rfl (by simp only [Xfer.size]; exact Nat.sub_pos_of_lt hl) (by rintro v (e|e) <;> cases e; exact hcw)
        · exact (hresp (putAt u.resp 0 [r1Byte (BitVec.extractLsb' 1 6 b) (BitVec.extractLsb' 0 1 b)])).beginCsOff huo (.cmd w) rfl (by intro v e; cases e; exact hcw)
    | _ :: _ :: _, hw => simp [decode, Except.toOption] at hw
  · rename_i bs
    match bs, hw with
    | [], hw => simp [decode, Except.toOption] at hw
    | [b], hw =>
      simp only [decode, decodeDataStart] at hw
      split at hw
      · simp only [Except.toOption, Option.some.injEq] at hw
        subst hw
        simp only [exec, execDataStart, hus] at he
        cases he
        exact hm.beginXfer .block huo rfl (by simp [Xfer.size, Config.blockSize]) (by simp)
      · simp [Except.toOption] at hw
    | _ :: _ :: _, hw => simp [decode, Except.toOption] at hw
  · rename_i bs
    match bs, hw with
    | [], hw => simp [decode, Except.toOption] at hw
    | [b], hw =>
      simp only [decode, Except.toOption, Option.some.injEq] at hw
      subst hw
      simp only [exec, execWriteStatus, hus] at he
      split at he
      · cases he; exact hm.pollMiss .wbusy hus huo rfl hur (by simp)
      · cases he
        have := hm.congr (t := { u with wresp := b }) rfl hm.data hm.wcopy rfl rfl rfl rfl rfl rfl rfl rfl hm.time.1 hm.time.2.1 hm.time.2.2
        exact this.beginXfer .writePad huo rfl (by simp [Xfer.size, Config.padLen]) (by simp)
    | _ :: _ :: _, hw => simp [decode, Except.toOption] at hw
  · rename_i w c bs
    split at hw
    · have := decode_r1Payload hw
      obtain ⟨e, j, q, rfl⟩ := this
      simp only [exec, execR1Payload, hus] at he
      cases he
      exact (hresp (putAt u.resp 0 [r1Byte e j, byteOf q 3, byteOf q 2, byteOf q 1, byteOf q 0])).beginCsOff huo (.cmd w) rfl (by intro v e; cases e; exact exchanging_congr (hc w rfl) rfl rfl rfl rfl)
    · simp at hw
  all_goals simp at hw

end Sys2Proof.Machine
end

