-- ==== Sys2Proof/Laws/PerInstr.lean ====
section
/-! SUPPORT. Per-instruction laws: one lemma per constructor of Instr. -/

namespace Sys2Proof.Laws.EncodeLength

/-- An encoding has the number of bytes of its row's format (R90). -/
def Statement (i : Instr) : Prop := (encode i).length = i.format.length

theorem hostRead (off : BitVec 10) : Statement (.hostRead off) := rfl
theorem sendCmd : Statement (.sendCmd) := rfl
theorem init : Statement (.init) := rfl
theorem readBlock : Statement (.readBlock) := rfl
theorem writeBlock : Statement (.writeBlock) := rfl
theorem opReserved0 : Statement (.opReserved0) := rfl
theorem opReserved5 : Statement (.opReserved5) := rfl
theorem opReserved6 : Statement (.opReserved6) := rfl
theorem opReserved7 : Statement (.opReserved7) := rfl
theorem wrCmd (idx : BitVec 6) : Statement (.wrCmd idx) := rfl
theorem wrArg (arg : Word) : Statement (.wrArg arg) := rfl
theorem wrResplen (len : BitVec 4) : Statement (.wrResplen len) := rfl
theorem crcSet (acc : BitVec 7) : Statement (.crcSet acc) := rfl
theorem crcFeed (b : Byte) : Statement (.crcFeed b) := rfl
theorem wrData (k : BitVec 7) (b0 b1 b2 b3 : Byte) : Statement (.wrData k b0 b1 b2 b3) := rfl
theorem wrIgnoredStatus : Statement (.wrIgnoredStatus) := rfl
theorem wrIgnoredAcmd41cnt : Statement (.wrIgnoredAcmd41cnt) := rfl
theorem wrIgnoredWresp : Statement (.wrIgnoredWresp) := rfl
theorem wrIgnoredPayload : Statement (.wrIgnoredPayload) := rfl
theorem wrIgnoredR1stat : Statement (.wrIgnoredR1stat) := rfl
theorem wrIgnoredRsv02C : Statement (.wrIgnoredRsv02C) := rfl
theorem wrIgnoredRsv030To03C (sel : BitVec 2) : Statement (.wrIgnoredRsv030To03C sel) := rfl
theorem wrIgnoredResp (sel : BitVec 3) : Statement (.wrIgnoredResp sel) := rfl
theorem wrIgnoredFrame060To07C (sel : BitVec 3) : Statement (.wrIgnoredFrame060To07C sel) := rfl
theorem wrIgnoredRsv080To0FC (sel : BitVec 5) : Statement (.wrIgnoredRsv080To0FC sel) := rfl
theorem wrIgnoredRsv100To1FC (sel : BitVec 6) : Statement (.wrIgnoredRsv100To1FC sel) := rfl
theorem cmdn (idx : BitVec 6) (arg : Word) (crc : BitVec 7) : Statement (.cmdn idx arg crc) := rfl
theorem cmd0 : Statement (.cmd0) := rfl
theorem cmd8 : Statement (.cmd8) := rfl
theorem cmd55 : Statement (.cmd55) := rfl
theorem acmd41 : Statement (.acmd41) := rfl
theorem cmd17 (arg : Word) (crc : BitVec 7) : Statement (.cmd17 arg crc) := rfl
theorem cmd24 (arg : Word) (crc : BitVec 7) : Statement (.cmd24 arg crc) := rfl
theorem r1 (e : BitVec 6) (i : BitVec 1) : Statement (.r1 e i) := rfl
theorem r1Payload (e : BitVec 6) (i : BitVec 1) (p : Word) : Statement (.r1Payload e i p) := rfl
theorem dataStart : Statement (.dataStart) := rfl
theorem writeStatus (b : Byte) : Statement (.writeStatus b) := rfl

end Sys2Proof.Laws.EncodeLength
end

