-- ==== Sys2Proof/Tests/Slice0.lean ====
section
/-! SUPPORT. The model's own tests. Expected values come from spec/: the opcode table and the encodings of
spec/30_encoding.md for the words, spec/95_test_vectors.md and the rules' examples for the steps. After them,
one witness for the hypotheses of each obligation that has some. -/

namespace Sys2Proof.Tests

open Sys2Proof.Machine

/-! ## Helpers -/

/-- The parameters of spec/95_test_vectors.md: the defaults, with a tick rate and a window base. -/
def params : Params := Params.standard 1000 0x1000

/-- The block after reset. -/
def idle : State := State.resetWith params

/-- The block at a point of an operation, with a request outstanding and inputs to come. -/
def at_ (p : Point) (r : Option Request) (events : List Event) : State :=
  { idle with busy := true, seq := .run p, csOwned := (Seq.run p).owns, req := r, inbox := events }

/-- The state an outcome goes on with. -/
def after (o : Host.Outcome State Fault Refusal) : Option State :=
  match o with
  | .next t => some t
  | .fault _ | .refused _ => none

/-! ## WellFormed -/

theorem test_wf_read : (Instr.hostRead 0x004#10).wellFormed = true ∧
    (Instr.hostRead 0x006#10).wellFormed = false := by decide

theorem test_wf_cmdn_crc : (Instr.cmdn 58#6 0#32 0x7E#7).wellFormed = true ∧
    (Instr.cmdn 58#6 0#32 0x7F#7).wellFormed = false := by decide +kernel

theorem test_wf_cmdn_named : (Instr.cmdn 0#6 0#32 0x4A#7).wellFormed = false ∧
    (Instr.cmdn 17#6 0#32 0x2A#7).wellFormed = false ∧
    (Instr.cmdn 41#6 0x40000000#32 0x3B#7).wellFormed = false := by decide +kernel

theorem test_wf_cmd17_crc : (Instr.cmd17 0#32 0x2A#7).wellFormed = true ∧
    (Instr.cmd17 0#32 0x2B#7).wellFormed = false := by decide +kernel

theorem test_wf_cmd24_crc : (Instr.cmd24 0x200#32 0x21#7).wellFormed = true ∧
    (Instr.cmd24 0x200#32 0x20#7).wellFormed = false := by decide +kernel

/-! ## Decoding: every row of spec/opcode_table.json, by a word written out from its encoding -/

/-- HOST_ACCESS is rw, off, data (R91): rw = 1 is bit 42, off starts at bit 32. -/
theorem test_decode_read : decodeTableWord 43 0x01000000000 = some (.hostRead 0x010#10) := by decide

theorem test_decode_ctrl : decodeTableWord 43 0x40000000009 = some .sendCmd ∧
    decodeTableWord 43 0x40000000002 = some .init ∧
    decodeTableWord 43 0x40000000003 = some .readBlock ∧
    decodeTableWord 43 0x4000000000C = some .writeBlock ∧
    decodeTableWord 43 0x40000000008 = some .opReserved0 ∧
    decodeTableWord 43 0x40000000005 = some .opReserved5 ∧
    decodeTableWord 43 0x40000000006 = some .opReserved6 ∧
    decodeTableWord 43 0x400FFFFFFFF = some .opReserved7 := by decide

theorem test_decode_operands : decodeTableWord 43 0x40800000051 = some (.wrCmd 17#6) ∧
    decodeTableWord 43 0x40CDEADBEEF = some (.wrArg 0xDEADBEEF#32) ∧
    decodeTableWord 43 0x4100000001F = some (.wrResplen 15#4) ∧
    decodeTableWord 43 0x414000000FF = some (.crcSet 0x7F#7) ∧
    decodeTableWord 43 0x41800000140 = some (.crcFeed 0x40#8) ∧
    decodeTableWord 43 0x60444332211 = some (.wrData 1#7 0x11#8 0x22#8 0x33#8 0x44#8) := by decide

theorem test_decode_ignored : decodeTableWord 43 0x404FFFFFFFF = some .wrIgnoredStatus ∧
    decodeTableWord 43 0x41C00000001 = some .wrIgnoredAcmd41cnt ∧
    decodeTableWord 43 0x42000000001 = some .wrIgnoredWresp ∧
    decodeTableWord 43 0x42400000001 = some .wrIgnoredPayload ∧
    decodeTableWord 43 0x42800000001 = some .wrIgnoredR1stat ∧
    decodeTableWord 43 0x42C00000001 = some .wrIgnoredRsv02C ∧
    decodeTableWord 43 0x43C00000001 = some (.wrIgnoredRsv030To03C 3#2) ∧
    decodeTableWord 43 0x45C00000001 = some (.wrIgnoredResp 7#3) ∧
    decodeTableWord 43 0x46000000001 = some (.wrIgnoredFrame060To07C 0#3) ∧
    decodeTableWord 43 0x4FC00000001 = some (.wrIgnoredRsv080To0FC 31#5) ∧
    decodeTableWord 43 0x5FC00000001 = some (.wrIgnoredRsv100To1FC 63#6) := by decide

/-- The frames of R104, R171 and R178. -/
theorem test_decode_frames : decodeTableWord 48 0x7A00000000FD = some (.cmdn 58#6 0#32 0x7E#7) ∧
    decodeTableWord 48 0x400000000095 = some .cmd0 ∧
    decodeTableWord 48 0x48000001AA87 = some .cmd8 ∧
    decodeTableWord 48 0x770000000065 = some .cmd55 ∧
    decodeTableWord 48 0x694000000077 = some .acmd41 ∧
    decodeTableWord 48 0x510000000055 = some (.cmd17 0#32 0x2A#7) ∧
    decodeTableWord 48 0x580000020043 = some (.cmd24 0x200#32 0x21#7) := by decide

theorem test_decode_wire : decodeTableWord 8 0x05 = some (.r1 2#6 1#1) ∧
    decodeTableWord 40 0x00C0FF8000 = some (.r1Payload 0#6 0#1 0xC0FF8000#32) ∧
    decodeTableWord 8 0xFE = some .dataStart ∧
    decode .writeStatus [0x05#8] = .ok (.writeStatus 0x05#8) := by decide

/-- R63, R100, R105, R107: what each decoder refuses. -/
theorem test_decode_refuses : decodeTableWord 43 0x40200000000 = none ∧
    decodeTableWord 48 0xC00000000095 = none ∧ decodeTableWord 48 0x400000000094 = none ∧
    decode .r1 [0x80#8] = .error .notAResponse ∧
    decode .dataStart [0xFF#8] = .error .notTheToken := by decide

/-! ## CRC7: the vectors of R150, R151, R153 and R155 -/

theorem test_crc_of_cmd0 : crc7Of [0x40#8, 0x00#8, 0x00#8, 0x00#8, 0x00#8] = 0x4A#7 := by decide +kernel

theorem test_crc_update : crc7Update 0x12#8 0x34#7 = 0x15#7 ∧ crc7Update 0x12#8 0x00#7 = 0x0B#7 ∧
    crc7Update 0x00#8 0x34#7 = 0x1E#7 := by decide

/-! ## Host accesses -/

/-- R130's example, and R46: R1STAT after reset is 0x0000FEFF. -/
theorem test_read_after_reset :
    (after (exec (.hostRead 0x010#10) idle)).map (·.rdata) = some 1#32 ∧
    (after (exec (.hostRead 0x028#10) idle)).map (·.rdata) = some 0x0000FEFF#32 := by decide

/-- The boundaries of the reserved ranges, RESP and FRAME (R61, R64): a reserved offset reads 0. -/
theorem test_read_boundaries :
    [0x02C#10, 0x03C#10, 0x060#10, 0x074#10, 0x078#10, 0x1FC#10].all (fun off =>
      (after (exec (.hostRead off) idle)).map (·.rdata) = some 0#32) = true ∧
    [0x040#10, 0x05C#10].all (fun off =>
      (after (exec (.hostRead off) idle)).map (·.rdata) = some 0xFF#32) = true := by decide

/-- R64: a reserved offset reads 0 in a busy block too, at the boundaries of both ranges. -/
theorem test_read_reserved_busy :
    [0x02C#10, 0x03C#10, 0x078#10, 0x1FC#10].all (fun off =>
      (after (exec (.hostRead off) (at_ (.poll .token) (some (.bulk [0xFF#8])) []))).map
        (fun t => (t.rdata, t.draws)) = some (0#32, 0)) = true := by decide

/-- R70 at the last DATA word: the low byte of the word is the first of its four block bytes. -/
theorem test_data_last_word :
    ((after (exec (.wrData 127#7 0x11#8 0x22#8 0x33#8 0x44#8) idle)).bind fun t =>
      (after (exec (.hostRead 0x3FC#10) t)).map (·.rdata)) = some 0x44332211#32 := by decide

/-- R131's example: a write to CMD keeps six bits. -/
theorem test_wr_cmd : (after (exec (.wrCmd 0x11#6) idle)).map (·.cmdIdx) = some 17#6 := by decide

/-- R153's example. -/
theorem test_crc_feed :
    (after (exec (.crcFeed 0x00#8) { idle with crcAcc := 0x4A#7 })).map (·.crcAcc) =
      some 0x7C#7 := by decide

/-- R68: a dropped write shows in WIGN, and an ignored one does not (R135). -/
theorem test_busy_writes :
    (after (exec (.wrArg 5#32) (at_ (.csOn (.cmd .user)) (some .csAssert) []))).map
      (fun t => (t.arg, t.wign)) = some (0#32, true) ∧
    (after (exec .wrIgnoredStatus (at_ (.csOn (.cmd .user)) (some .csAssert) []))).map
      (·.wign) = some false := by decide

/-- R132's example: SEND_CMD with CMD = 0 and RESPLEN = 1 sends the CMD0 frame. -/
theorem test_send_cmd :
    ((after (exec .sendCmd idle)).bind fun t => (after (step t)).map (·.frame)) =
      some #v[0x40#8, 0x00#8, 0x00#8, 0x00#8, 0x00#8, 0x95#8] := by decide +kernel

/-- R96 at both ends of the legal range. -/
theorem test_resplen_bounds :
    [0#4, 1#4, 8#4, 9#4, 15#4].map (fun len =>
      (after (exec .sendCmd { idle with respLen := len })).map (fun t => (t.busy, t.detail))) =
    [some (false, .badResplen), some (true, .none), some (true, .none),
     some (false, .badResplen), some (false, .badResplen)] := by decide

/-- R133: a reserved op code ends at once. -/
theorem test_bad_op : (after (exec .opReserved7 idle)).map
    (fun t => (t.ctrlOp, t.busy, t.done, t.err, t.detail)) =
      some (7#3, false, true, .illegal, .badOp) := by decide

/-- R63 and R65 at the edges of the window. -/
theorem test_bad_access :
    [(8, 0x1000), (32, 0x1002), (32, 0x0FFC), (32, 0x1400)].map (fun (width, addr) =>
      match step { idle with inbox := [.host ⟨width, false, addr, 0#32⟩] } with
      | .refused r => some r
      | .next _ | .fault _ => none) =
    [some .badWidth, some .misaligned, some .outsideWindow, some .outsideWindow] := by decide

/-! ## The wire -/

/-- R226 and R29: INIT's ACMD41 counts, and the count saturates; SEND_CMD's does not count. -/
theorem test_acmd41_counts :
    (after (exec .acmd41 (at_ (.issueCmd .acmd41) none []))).map (·.acmd41cnt) = some 1#32 ∧
    (after (exec .acmd41 { at_ (.issueCmd .acmd41) none [] with acmd41cnt := 0xFFFFFFFF#32 })).map
      (·.acmd41cnt) = some 0xFFFFFFFF#32 ∧
    (after (exec .acmd41 (at_ (.issueCmd .user) none []))).map (·.acmd41cnt) = some 0#32 := by decide

/-- R172: 0x80 does not end the R1 poll, 0x01 does. -/
theorem test_r1_poll :
    (after (step (at_ (.poll (.r1 .user)) (some (.bulk [0xFF#8])) [.answer (.ok [0x80#8])]))).map
      (·.seq) = some (.run (.poll (.r1 .user))) ∧
    (after (step { at_ (.poll (.r1 .user)) (some (.bulk [0xFF#8])) [.answer (.ok [0x01#8])] with
      lLen := 1#4 })).map (fun t => (t.seq, t.resp[0])) =
      some (.run (.csOff (.cmd .user)), 0x01#8) := by decide

/-- R204: elapsed = D is in time, elapsed = D + 1 is not; a match wins even then (T_TOKEN = 1000). -/
theorem test_token_deadline :
    [(1000, 0xFF#8), (1001, 0xFF#8), (1001, 0xFE#8)].map (fun (now, b) =>
      (after (step { at_ (.poll .token) (some (.bulk [0xFF#8])) [.answer (.ok [b])] with
        now := now })).map (·.seq)) =
    [some (.run (.poll .token)), some (.run (.failCs .readBlock .tokenPollTimeout)),
     some (.run (.xfer .block 0))] := by decide

/-- R258: 0x00 is busy, 0x05 ends the poll and is kept. -/
theorem test_write_status :
    (after (exec (.writeStatus 0x00#8) (at_ (.poll .wbusy) none []))).map (·.seq) =
      some (.run (.poll .wbusy)) ∧
    (after (exec (.writeStatus 0x05#8) (at_ (.poll .wbusy) none []))).map (·.wresp) =
      some 0x05#8 := by decide

/-- R178's example: PAYLOAD after a response of five bytes. -/
theorem test_r1_payload :
    (after (exec (.r1Payload 0#6 0#1 0xC0FF8000#32)
      (at_ (.xfer (.rest .user) 0) none []))).map (fun t => (t.payloadWord, t.resp[5])) =
      some (0xC0FF8000#32, 0xFF#8) := by decide

/-- R221: with the defaults the power-up bytes are a BULK of 6 and a BULK of 4. -/
theorem test_power_up :
    (chunks 6 (List.replicate 10 0xFF#8)).map List.length = [6, 4] := by decide

/-- R292: `now` wraps between the anchor and the sample (TIME_WIDTH = 64). -/
theorem test_elapsed_wraps : elapsed 64 3 (2 ^ 64 - 2) = 5 := by decide

/-- R47 and U15: while an operation runs a time that goes down is refused, and a wrap is not (R292). -/
theorem test_time_goes_down :
    [2 ^ 64 + 3, 2 ^ 64 + 4, 2 ^ 65].map (fun n =>
      match step { at_ (.poll .token) (some (.bulk [0xFF#8])) [.time n] with
        now := 4, wraps := 1 } with
      | .next t => some (t.now, t.wraps)
      | .fault _ | .refused _ => none) = [none, some (4, 1), some (0, 2)] ∧
    (after (step { idle with now := 4, inbox := [.time 3] })).map (·.now) = some 3 := by decide

/-- R76 and U15: another agent on the transport, while an operation runs and between operations. -/
theorem test_other_agent :
    (after (step (at_ (.poll .token) (some (.bulk [0xFF#8])) [.otherAgent]))).isSome = false ∧
    (after (step { idle with inbox := [.otherAgent] })) = some idle := by decide

/-- R286 at V3's response of eight bytes, split 6 + 1: after its first remainder chunk fails, RESP[0] and
RESP[7] are as they were. -/
theorem test_failing_remainder :
    (after (step { at_ (.xfer (.rest .user) 0) (some (.bulk (List.replicate 6 0xFF#8)))
        [.answer .fail] with lLen := 8#4, resp := idle.resp.set 0 0x01#8 })).map
      (fun t => (t.resp[0], t.resp[7], t.draws)) = some (0x01#8, 0xFF#8, 6) := by decide

/-- R312: the answer to an abandoned request is dropped, also while the next operation waits for its own
first answer; so is an answer that the request cannot have (R40). -/
theorem test_stale_answer :
    (after (step (at_ (.csOn (.cmd .user)) (some .csAssert) [.staleAnswer (.ok [])]))).map
      (fun t => (t.seq, t.req, t.csst)) =
      some (.run (.csOn (.cmd .user)), some .csAssert, .deasserted) ∧
    (after (step (at_ (.poll .token) (some (.bulk [0xFF#8])) [.answer (.ok [])]))).map
      (fun t => (t.seq, t.req)) = some (.run (.poll .token), some (.bulk [0xFF#8])) := by decide

/-- R11 (d): with the same answer for ever and time at a stand, two steps bring the poll back. -/
theorem test_hang :
    (after (steps 2 { at_ (.poll .token) (some (.bulk [0xFF#8])) [] with
      cycle := [.answer (.ok [0xFF#8])] })).map (fun t => (t.seq, t.inbox, t.wire.length)) =
      some (.run (.poll .token), [], 1) := by decide

/-! ## withFetchWord: an instruction placed at reset is the one the next step runs -/

theorem test_fetch_host :
    (after (step (idle.withFetchWord 43 0x40800000051))).map (·.cmdIdx) = some 17#6 := by decide

theorem test_fetch_frame :
    (after (step (idle.withFetchWord 48 0x48000001AA87))).map (fun t => (t.seq, t.frame)) =
      some (.run (.csOn (.cmd .user)), #v[0x48#8, 0x00#8, 0x00#8, 0x01#8, 0xAA#8, 0x87#8]) := by
  decide

theorem test_fetch_wire :
    (after (step (idle.withFetchWord 8 0x05))).map (·.resp[0]) = some 0x05#8 ∧
    (after (step (idle.withFetchWord 40 0x00C0FF8000))).map (·.payloadWord) =
      some 0xC0FF8000#32 ∧
    (after (step (idle.withFetchWord 8 0xFE))).map (·.seq) = some (.run (.xfer .block 0)) ∧
    (after (step (idle.withFetchWord 8 0xE5))).map (·.wresp) = some 0xE5#8 := by decide

/-! ## States that meet the invariant, for the witnesses -/

theorem idle_inv : idle.Inv where
  params := by simp [idle, params, State.resetWith, Params.standard, Params.wf]
  data := rfl
  wcopy := rfl
  busy := by simp [idle, State.resetWith]
  running := by simp [idle, State.resetWith]
  errDetail := rfl
  owned := rfl
  bracket := rfl
  request := rfl
  inRange := by simp [idle, State.resetWith]
  bulks := by simp [idle, State.resetWith]
  latched := by simp [idle, State.resetWith]
  length := by simp [idle, State.resetWith]
  frame := by simp [idle, State.resetWith]
  cause := by simp [idle, State.resetWith]
  initst := by simp [idle, State.resetWith]
  time := by simp [idle, params, State.resetWith, Params.standard]

/-- The idle block with inputs to come. -/
def idleWith (events : List Event) : State := { idle with inbox := events }

theorem idleWith_inv (events : List Event) : (idleWith events).Inv := idle_inv.inbox events

/-- INIT with its first power-up chunk outstanding. -/
def poweringUp (events : List Event) : State :=
  { ((idle.latch 2#3).launch .init).startOp .init with inbox := events }

theorem poweringUp_inv (events : List Event) : (poweringUp events).Inv := by
  have h : ((idle.latch 2#3).launch .init).Inv := State.Inv.ctrlGo (op := 2#3) idle_inv rfl
  exact (h.start rfl).inbox events

/-- SEND_CMD about to send its frame. -/
def sending : State := ((idle.latch 1#3).launch .sendCmd).startOp .sendCmd

theorem sending_inv : sending.Inv := by
  have h : ((idle.latch 1#3).launch .sendCmd).Inv := State.Inv.ctrlGo (op := 1#3) idle_inv rfl
  exact h.start rfl

/-- SEND_CMD with its CS_ASSERT outstanding. -/
def asserting (events : List Event) : State :=
  { sending.openCommand .user sending.frame with inbox := events }

theorem asserting_inv (events : List Event) : (asserting events).Inv := by
  have hs : sending.seq = .run (.issueCmd .user) := rfl
  have h : (sending.openCommand .user sending.frame).Inv :=
    sending_inv.sendFrame hs (.inl rfl) (by simp [sendFrame, hs])
  exact h.inbox events

/-- SEND_CMD's failure path, with its CS_DEASSERT outstanding. -/
def deasserting (events : List Event) : State :=
  { ({ asserting [] with inbox := [], req := none } : State).onAnswer (.csOn (.cmd .user)) .fail with
    inbox := events }

theorem deasserting_inv (events : List Event) : (deasserting events).Inv := by
  have h := (asserting_inv []).onAnswer (p := .csOn (.cmd .user)) rfl .fail [] .csAssert rfl rfl
  exact h.inbox events

/-- A block at a transfer inside a chip-select bracket, with its first chunk outstanding. -/
def transferring (op : BitVec 3) (x : Xfer) (events : List Event) : State :=
  ({ idle with busy := true, lOp := op, lLen := 5#4, csOwned := true, wire := [.csAssert],
               frame := buildFrame 0#6 0#32, inbox := events } : State).beginXfer x

theorem transferring_running (op : BitVec 3) (o : Op) (events : List Event)
    (h : opOfCode op = some o) :
    Running { idle with busy := true, lOp := op, lLen := 5#4, csOwned := true, wire := [.csAssert],
                        frame := buildFrame 0#6 0#32, inbox := events } o where
  params := idle_inv.params
  data := rfl
  wcopy := rfl
  busy := rfl
  done := rfl
  err := rfl
  detail := rfl
  bracket := rfl
  bulks := by simp
  latched := h
  length := fun _ => rfl
  time := idle_inv.time

theorem transferring_block_inv (events : List Event) : (transferring 3#3 .block events).Inv :=
  (transferring_running 3#3 .readBlock events rfl).beginXfer .block rfl rfl
    (by simp [Xfer.size, Config.blockSize]) (by simp)

theorem transferring_rest_inv (events : List Event) :
    (transferring 1#3 (.rest .user) events).Inv :=
  (transferring_running 1#3 .sendCmd events rfl).beginXfer (.rest .user) rfl rfl
    (by simp [Xfer.size, Cmd.len]) (by
      rintro w (e | e) <;> cases e
      exact ⟨rfl, by simp [Cmd.initState]⟩)

/-! ## Witnesses: for each obligation with hypotheses, a state and operands that meet them -/

theorem witness_ResetAbandonsEverything :
    (idleWith [.reset, .answer .fail]).inbox = .reset :: .answer .fail :: [] ∧
    (poweringUp [.staleAnswer .fail]).inbox = .staleAnswer .fail :: [] ∧
    (poweringUp [.answer (.ok [])]).Inv ∧
    (poweringUp [.answer (.ok [])]).req = some (.bulk (List.replicate 6 0xFF#8)) ∧
    (Request.bulk (List.replicate 6 0xFF#8)).fits (.ok []) = false ∧
    idle.seq = .idle ∧ idle.inbox = [] ∧ idle.cycle = [] :=
  ⟨rfl, rfl, poweringUp_inv _, rfl, by decide, rfl, rfl, rfl⟩

theorem witness_ResetSatisfiesTheInvariant : params.wf := idle_inv.params

theorem witness_IdleReadReturnsTheRegister : idle.busy = false ∧
    (∀ off ∈ [0x02C#10, 0x03C#10, 0x078#10, 0x1FC#10], off.toNat % 4 = 0 ∧
      ((0x02C ≤ off.toNat ∧ off.toNat < 0x040) ∨ (0x078 ≤ off.toNat ∧ off.toNat < 0x200))) ∧
    exec (.hostRead 0x3FC#10) idle = .next { idle with rdata := idle.readReg 0x3FC } :=
  ⟨by decide, by decide, rfl⟩

theorem witness_BusyReadFixesOnlyStatus :
    (at_ (.csOn (.cmd .user)) (some .csAssert) []).busy = true ∧
    [0x000#10, 0x004#10, 0x028#10, 0x040#10, 0x074#10, 0x200#10, 0x3FC#10].all (fun off =>
      off.toNat % 4 = 0 ∧ reservedOffset off.toNat = false) = true ∧
    [0x02C#10, 0x03C#10, 0x078#10, 0x1FC#10].all (fun off =>
      off.toNat % 4 = 0 ∧ reservedOffset off.toNat = true) = true := by decide

theorem witness_OperandWriteStoresItsField : idle.busy = false ∧
    (at_ (.csOn (.cmd .user)) (some .csAssert) []).busy = true := by decide

theorem witness_DataWordsAreLittleEndian : idle.busy = false ∧ (0#7 : BitVec 7) ≠ 127#7 := by decide

theorem witness_CrcRegisterWrites : idle.busy = false ∧
    (at_ (.poll .token) (some (.bulk [0xFF#8])) []).busy = true := by decide

theorem witness_BusyWritesAreDropped : (at_ (.poll .token) (some (.bulk [0xFF#8])) []).busy = true ∧
    [0x000#10, 0x018#10, 0x01C#10, 0x1FC#10, 0x200#10, 0x3FC#10].all (fun off =>
      decide (off.toNat % 4 = 0)) = true := by decide

theorem witness_IgnoredWritesChangeNothing :
    ∀ off ∈ [0x004#10, 0x01C#10, 0x1FC#10], off.toNat % 4 = 0 ∧
      (off.toNat = 0x004 ∨ (0x01C ≤ off.toNat ∧ off.toNat < 0x200)) := by decide

theorem witness_CtrlWriteStartsTheOperation : idle.busy = false ∧
    (∀ len ∈ [1#4, 8#4], 1 ≤ len.toNat ∧ len.toNat ≤ 8) ∧
    (∀ len ∈ [0#4, 9#4, 15#4], len.toNat = 0 ∨ 9 ≤ len.toNat) ∧
    (at_ (.poll .token) (some (.bulk [0xFF#8])) []).busy = true := by decide

theorem witness_IllegalStartEndsAtOnce : idle.busy = false ∧
    (8#32 : Word).extractLsb' 0 3 = 0#3 ∧
    (∀ v ∈ [5#32, 15#32], 5 ≤ ((v : Word).extractLsb' 0 3).toNat) ∧
    (9#32 : Word).extractLsb' 0 3 = 1#3 ∧
    (∀ len ∈ [0#4, 9#4, 15#4], len.toNat = 0 ∨ 9 ≤ len.toNat) := by
  refine ⟨rfl, by simp, by simp, by simp, by decide⟩

theorem witness_FirstStepOfEachOperation :
    ∀ op ∈ [Op.sendCmd, .init, .readBlock, .writeBlock],
      (at_ (.start op) none []).undisturbed = true ∧
      (at_ (.start op) none [.answer .fail]).undisturbed = true ∧
      (at_ (.start op) none []).seq = .run (.start op) := by decide

theorem witness_FrameRowsOpenTheExchange : ∀ w ∈ [Cmd.user, .acmd41, .cmd24],
    (at_ (.issueCmd w) none []).seq = .run (.issueCmd w) := by decide

theorem witness_R1EndsItsPoll :
    (at_ (.poll (.r1 .cmd17)) none []).seq = .run (.poll (.r1 .cmd17)) ∧
    Cmd.cmd17.len idle ≤ 1 ∧ 1 < Cmd.cmd8.len idle ∧
    1 < Cmd.user.len { idle with lLen := 2#4 } := by decide

theorem witness_R1PayloadEndsItsExchange :
    (at_ (.xfer (.rest .cmd8) 0) none []).seq = .run (.xfer (.rest .cmd8) 0) := by decide

theorem witness_DataStartOpensTheBlock :
    (at_ (.poll .token) none []).seq = .run (.poll .token) ∧
    (at_ .issueToken none []).seq = .run .issueToken ∧
    1 ≤ (at_ .issueToken none []).params.chunkSize := by decide

theorem witness_WriteStatusByteIsNotDecoded :
    (at_ (.poll .wbusy) none []).seq = .run (.poll .wbusy) ∧ (0x01#8 : Byte) ≠ 0x00#8 ∧
    elapsed 64 1000 0 ≤ params.tWbusy ∧ params.tWbusy < elapsed 64 1001 0 ∧
    (at_ (.poll .wbusy) none []).csOwned = true := by decide

theorem witness_WireRowsOutOfPlaceAreRefused :
    (∀ p, idle.seq ≠ .run p) ∧ Instr.cmd0.format = .cmdFrame := ⟨by simp [idle, State.resetWith], rfl⟩

theorem witness_CsstFollowsTheAnswers :
    (∀ a ∈ [Answer.ok [], .fail],
      (asserting [.answer a]).Inv ∧ (asserting [.answer a]).req = some .csAssert ∧
      (deasserting [.answer a]).Inv ∧ (deasserting [.answer a]).req = some .csDeassert) ∧
    (poweringUp [.answer .fail]).Inv ∧
    (poweringUp [.answer .fail]).req = some (.bulk (List.replicate 6 0xFF#8)) ∧
    (Request.bulk (List.replicate 6 0xFF#8)).fits .fail = true ∧
    (∀ a ∈ [Answer.ok [], .fail],
      Request.csAssert.fits a = true ∧ Request.csDeassert.fits a = true) ∧
    (∃ a rest, (idleWith [hostWriteAt params 0x000 2#32]).inbox = .host a :: rest ∧ a.write = true) ∧
    ([step (asserting [.answer (.ok [])]), step (asserting [.answer .fail]),
      step (deasserting [.answer (.ok [])]), step (deasserting [.answer .fail]),
      step (poweringUp [.answer .fail])].map fun o => (after o).isSome) =
      [true, true, true, true, true] :=
  ⟨fun a _ => ⟨asserting_inv _, rfl, deasserting_inv _, rfl⟩, poweringUp_inv _, rfl, rfl,
    by decide, ⟨_, _, rfl, rfl⟩, by decide +kernel⟩

theorem witness_CsAssertOpensTheExchange : ∀ b ∈ [Exchange.cmd .cmd0, .read, .write],
    (at_ (.csOn b) (some .csAssert) [.answer .fail]).seq = .run (.csOn b) ∧
    (at_ (.csOn b) (some .csAssert) [.answer .fail]).csOwned = true := by decide

theorem witness_CsDeassertClosesTheExchange : ∀ b ∈ [Exchange.cmd .cmd0, .read, .write],
    (at_ (.csOff b) (some .csDeassert) [.answer .fail]).seq = .run (.csOff b) ∧
    (at_ (.csOff b) (some .csDeassert) [.answer .fail]).csOwned = false := by decide

theorem witness_ExchangesEndTheirOperation :
    ∀ b ∈ [Exchange.read, .write, .cmd .user, .cmd .cmd17, .cmd .cmd24],
      (at_ (.csOff b) (some .csDeassert) [.answer (.ok [])]).seq = .run (.csOff b) ∧
      (at_ (.csOff b) (some .csDeassert) [.answer (.ok [])]).req = some .csDeassert ∧
      (at_ (.csOff b) (some .csDeassert) [.answer (.ok [])]).csOwned = false := by decide

theorem witness_InitTransitionTable :
    ∀ w ∈ [Cmd.cmd0, .cmd8, .cmd55, .acmd41],
      (at_ (.csOff (.cmd w)) (some .csDeassert) [.answer (.ok [])]).seq = .run (.csOff (.cmd w)) ∧
      (at_ (.csOff (.cmd w)) (some .csDeassert) [.answer (.ok [])]).csOwned = false := by decide

theorem witness_ChunksRebuildTheString : 1 ≤ 1 ∧ 1 ≤ [0xFF#8].length := by decide

theorem witness_TransferSendsEveryChunk :
    (let s := poweringUp (answersOf [List.replicate 6 0#8, List.replicate 4 0#8])
     s.Inv ∧ s.seq = .run (.xfer .powerUp 0) ∧
      [6, 4] = (chunks s.params.chunkSize (Xfer.powerUp.outgoing s)).map List.length) ∧
    (let s := transferring 1#3 (.rest .user) (answersOf [List.replicate 4 0#8])
     s.Inv ∧ s.seq = .run (.xfer (.rest .user) 0) ∧
      [4] = (chunks s.params.chunkSize ((Xfer.rest .user).outgoing s)).map List.length) ∧
    (let s := transferring 3#3 .block
        (answersOf (List.replicate 85 (List.replicate 6 0#8) ++ [List.replicate 2 0#8]))
     s.Inv ∧ s.seq = .run (.xfer .block 0) ∧
      List.replicate 85 6 ++ [2] =
        (chunks s.params.chunkSize (Xfer.block.outgoing s)).map List.length) ∧
    (let s := transferring 3#3 .block (answersOf [List.replicate 6 0#8] ++ [.answer .fail])
     s.Inv ∧ s.seq = .run (.xfer .block 0) ∧
      0 + 1 < (chunks s.params.chunkSize (Xfer.block.outgoing s)).length ∧
      [6] = (((chunks s.params.chunkSize (Xfer.block.outgoing s)).drop 0).take 1).map List.length) :=
  ⟨⟨poweringUp_inv _, rfl, by decide +kernel⟩, ⟨transferring_rest_inv _, rfl, by decide +kernel⟩,
    ⟨transferring_block_inv _, rfl, by decide +kernel⟩,
    ⟨transferring_block_inv _, rfl, by decide +kernel, by decide +kernel⟩⟩

theorem witness_AfterADiscardedTransfer :
    ∀ x ∈ [Xfer.powerUp, .frame .cmd0, .readCrc, .readPad, .token, .dummyCrc, .writePad],
      (at_ (.xfer x 1) (some (.bulk [0xFF#8])) [.answer (.ok [0xFF#8])]).seq = .run (.xfer x 1) ∧
      x.size idle ≤ (1 + 1) * idle.params.chunkSize := by decide

theorem witness_FailingChunkStopsTheTransfer :
    (at_ (.xfer .block 85) (some (.bulk [0xFF#8])) [.answer .fail]).csOwned = true ∧
    (at_ (.xfer .powerUp 1) (some (.bulk [0xFF#8])) [.answer .fail]).csOwned = false ∧
    (at_ (.xfer .block 85) (some (.bulk [0xFF#8])) [.answer .fail]).seq =
      .run (.xfer .block 85) := by decide

theorem witness_PollIteration :
    ∀ k ∈ [PollKind.r1 .user, .token, .wbusy],
      (at_ (.poll k) (some (.bulk [0xFF#8])) [.answer (.ok [0x00#8])]).seq = .run (.poll k) ∧
      (at_ (.poll k) (some (.bulk [0xFF#8])) []).req = some (.bulk [0xFF#8]) ∧
      (at_ (.poll k) (some (.bulk [0xFF#8])) []).csOwned = true ∧
      (at_ (.poll k) (some (.bulk [0xFF#8])) []).inbox = [] ∧
      elapsed params.timeWidth idle.now idle.t0 ≤ k.deadline idle := by decide

theorem witness_ElapsedTimeWraps : 7 ≤ 2 ^ 64 + 6 ∧ 2 ^ 64 + 6 - 7 < 2 ^ 64 := by decide

theorem witness_FailurePathKeepsItsError :
    (at_ (.failCs .init .cmd0NotIdle) (some .csDeassert) [.answer .fail]).seq =
      .run (.failCs .init .cmd0NotIdle) ∧
    (at_ (.failCs .init .cmd0NotIdle) (some .csDeassert) [.answer .fail]).req =
      some .csDeassert := by decide

theorem witness_OperationsEndWithListedErrors :
    (poweringUp [.answer .fail]).Inv ∧ (poweringUp [.answer .fail]).seq = .run (.xfer .powerUp 0) ∧
    (after (step (poweringUp [.answer .fail]))).map (fun t => (t.seq, t.detail)) =
      some (.idle, .xferFail) :=
  ⟨poweringUp_inv _, rfl, by decide⟩

theorem witness_UnansweredRequestIsStuck :
    (poweringUp []).Inv ∧ (poweringUp []).req ≠ none ∧ (poweringUp []).inbox = [] ∧
    (poweringUp []).cycle = [] ∧
    (poweringUp [.time 5]).Inv ∧ (after (step (poweringUp [.time 5]))).isSome = true :=
  ⟨poweringUp_inv _, by decide, rfl, rfl, poweringUp_inv _, by decide⟩

theorem witness_StepRunsTheHostAccess :
    decodeHost true 0x00C#10 5#32 = .ok (.wrArg 5#32) ∧ (Instr.wrArg 5#32).wellFormed = true ∧
    (Instr.wrArg 5#32).format = .hostAccess ∧
    encode (.wrArg 5#32) = [0x04#8, 0x0C#8, 0x00#8, 0x00#8, 0x00#8, 0x05#8] := by decide

theorem witness_StepRunsTheFrame :
    (at_ (.issueCmd .user) none []).undisturbed = true ∧ Instr.cmd8.wellFormed = true ∧
    decode .cmdFrame (encode .cmd8) = .ok .cmd8 ∧
    (buildFrame 8#6 0x1AA#32).toList = encode .cmd8 := by decide +kernel

theorem witness_StepRunsTheWireRow :
    (∀ i ∈ [Instr.r1 0#6 1#1, .dataStart, .writeStatus 0x00#8], i.wellFormed = true ∧
      (encode i).length = 1) ∧
    (let i := Instr.r1Payload 0#6 1#1 0x1AA#32
     i.wellFormed = true ∧ Cmd.cmd8.len idle = 5 ∧ 0 * idle.params.chunkSize < 4 ∧
      4 ≤ (0 + 1) * idle.params.chunkSize ∧
      (#v[0x01#8, 0xFF#8, 0xFF#8, 0xFF#8, 0xFF#8, 0xFF#8, 0xFF#8, 0xFF#8].toList.take 1) =
        (encode i).take 1) ∧
    (at_ .issueToken none []).undisturbed = true := by decide

theorem witness_BadHostAccessIsRefused :
    ∃ a b c d : HostAccess, a.width ≠ 32 ∧
      (b.width = 32 ∧ (b.addr < params.regBase ∨ params.regBase + 0x400 ≤ b.addr)) ∧
      (c.width = 32 ∧ params.regBase ≤ c.addr ∧ c.addr < params.regBase + 0x400 ∧
        (c.addr - params.regBase) % 4 ≠ 0) ∧
      (d.width = 32 ∧ params.regBase ≤ d.addr ∧ d.addr < params.regBase + 0x400 ∧
        (d.addr - params.regBase) % 4 = 0) :=
  ⟨⟨16, true, 0x1000, 0#32⟩, ⟨32, true, 0x1400, 0#32⟩, ⟨32, true, 0x13FE, 0#32⟩,
    ⟨32, true, 0x13FC, 0#32⟩, by decide⟩

theorem witness_StepKeepsTheInvariant :
    (poweringUp [.answer .fail]).Inv ∧ (after (step (poweringUp [.answer .fail]))).isSome = true :=
  ⟨poweringUp_inv _, by decide⟩

theorem witness_OperationsNeverWriteOperandRegisters :
    (after (step (poweringUp [.answer .fail]))).isSome = true ∧
    (after (step (idleWith [hostWriteAt params 0x00C 5#32]))).isSome = true := by decide

theorem witness_OnlyReadBlockAndTheHostWriteData :
    (after (step (idleWith [hostWriteAt params 0x200 5#32]))).map (·.data.length) = some 4 ∧
    (after (step (at_ (.start .writeBlock) none []))).isSome = true := by decide +kernel

theorem witness_ResultRegistersHaveOneWriter :
    (after (step (at_ (.start .init) none []))).map (·.initst) = some .powerup ∧
    (after (step (at_ (.poll .wbusy) (some (.bulk [0xFF#8])) [.answer (.ok [0x05#8])]))).map
      (·.wresp) = some 0x05#8 ∧
    (after (step (at_ (.poll (.r1 .cmd17)) (some (.bulk [0xFF#8])) [.answer (.ok [0x05#8])]))).map
      (·.resp[0]) = some 0x05#8 ∧
    (after (step (idleWith [hostWriteAt params 0x000 2#32]))).isSome = true := by decide

theorem witness_ErrorsAreWrittenAtStartAndEnd :
    (poweringUp [.answer .fail]).Inv ∧
    (after (step (poweringUp [.answer .fail]))).map (·.err) = some .transport :=
  ⟨poweringUp_inv _, by decide⟩

theorem witness_HostCannotDisturbAnOperation :
    (poweringUp [hostWriteAt params 0x000 2#32]).busy = true ∧
    (after (step (poweringUp [hostWriteAt params 0x000 2#32]))).map (·.wign) = some true := by decide

theorem witness_OperationsReadOnlyLatchedOperands :
    (poweringUp [.answer .fail]).busy = true ∧ (poweringUp [.answer .fail]).seq ≠ .idle ∧
    (after (step (poweringUp [.answer .fail]))).isSome = true := by decide

theorem witness_OneRequestAtATime :
    (asserting [.answer (.ok [])]).Inv ∧
    (after (step (asserting [.answer (.ok [])]))).map (·.wire.length) = some 2 :=
  ⟨asserting_inv _, by decide +kernel⟩

theorem witness_DecodingAnEncodingGivesItBack :
    (Instr.cmdn 63#6 0xFFFFFFFF#32 (frameCrc 63#6 0xFFFFFFFF#32)).wellFormed = true := by
  decide +kernel

theorem witness_EncodingADecodedWireStringGivesItBack :
    decode .r1 [0x7F#8] = .ok (.r1 0x3F#6 1#1) ∧ Format.r1 ≠ .hostAccess := by decide

theorem witness_SendCmdRunsItsExchange :
    ∃ (s : State) (back before payload : List Byte) (r1 : Byte) (rest : List Event), s.Inv ∧
      s.busy = false ∧ 1 ≤ s.respLen.toNat ∧ s.respLen.toNat ≤ 8 ∧ back.length = 6 ∧
      (∀ b ∈ before, b.getLsbD 7 = true) ∧ r1.getLsbD 7 = false ∧
      payload.length = s.respLen.toNat - 1 ∧
      s.inbox = hostWriteAt s.params 0x000 1#32 ::
        (exchangeAnswers s.params.chunkSize back before r1 payload ++ rest) :=
  ⟨idleWith (hostWriteAt params 0x000 1#32 ::
      (exchangeAnswers 6 (List.replicate 6 0#8) [0xFF#8] 0x01#8 [] ++ [])),
    List.replicate 6 0#8, [0xFF#8], [], 0x01#8, [], idleWith_inv _, rfl, by decide, by decide, rfl,
    by decide, by decide, rfl, rfl⟩

theorem witness_InitTakesElevenPlusNineRequestsPerAttempt :
    ∃ (s : State) (attempts : List (Byte × List Byte)) (up1 up2 back echo ocr : List Byte)
      (rest : List Event), s.Inv ∧ s.busy = false ∧ s.params.chunkSize = 6 ∧
      s.params.nPowerup = 10 ∧ s.params.acmd41RespLen = 5 ∧ up1.length = 6 ∧ up2.length = 4 ∧
      back.length = 6 ∧ echo.length = 3 ∧ ocr.length = 4 ∧
      (∀ a ∈ attempts, a.1.getLsbD 7 = false ∧ a.1 ≠ 0x00#8 ∧ a.2.length = 4) ∧
      s.inbox = hostWriteAt s.params 0x000 2#32 :: (answersOf [up1, up2] ++
        exchangeAnswers 6 back [] 0x01#8 [] ++ exchangeAnswers 6 back [] 0x01#8 (echo ++ [0xAA#8]) ++
        attempts.flatMap (fun a => exchangeAnswers 6 back [] 0x01#8 [] ++
          exchangeAnswers 6 back [] a.1 a.2) ++
        exchangeAnswers 6 back [] 0x01#8 [] ++ exchangeAnswers 6 back [] 0x00#8 ocr ++ rest) :=
  ⟨idleWith (hostWriteAt params 0x000 2#32 :: (answersOf [List.replicate 6 0#8, List.replicate 4 0#8] ++
      exchangeAnswers 6 (List.replicate 6 0#8) [] 0x01#8 [] ++
      exchangeAnswers 6 (List.replicate 6 0#8) [] 0x01#8 (List.replicate 3 0#8 ++ [0xAA#8]) ++
      [((0x01#8 : Byte), List.replicate 4 (0#8 : Byte)), (0x05#8, List.replicate 4 0xFF#8)].flatMap (fun a =>
        exchangeAnswers 6 (List.replicate 6 0#8) [] 0x01#8 [] ++
        exchangeAnswers 6 (List.replicate 6 0#8) [] a.1 a.2) ++
      exchangeAnswers 6 (List.replicate 6 0#8) [] 0x01#8 [] ++
      exchangeAnswers 6 (List.replicate 6 0#8) [] 0x00#8 (List.replicate 4 0#8) ++ [])),
    [(0x01#8, List.replicate 4 0#8), (0x05#8, List.replicate 4 0xFF#8)],
    List.replicate 6 0#8, List.replicate 4 0#8, List.replicate 6 0#8, List.replicate 3 0#8,
    List.replicate 4 0#8, [], idleWith_inv _, rfl, rfl, rfl, rfl, rfl, rfl, rfl, rfl, rfl,
    by decide, rfl⟩

theorem witness_ReadBlockFillsData :
    ∃ (s : State) (back before skipped block crc pad : List Byte) (rest : List Event), s.Inv ∧
      s.busy = false ∧ back.length = 6 ∧ (∀ b ∈ before, b.getLsbD 7 = true) ∧
      (∀ b ∈ skipped, b ≠ 0xFE#8) ∧ block.length = 512 ∧ crc.length = 2 ∧ pad.length = 8 ∧
      s.inbox = hostWriteAt s.params 0x000 3#32 ::
        (exchangeAnswers s.params.chunkSize back before 0x00#8 [] ++
          answersOf ([[]] ++ skipped.map (fun b => [b]) ++ [[0xFE#8]] ++
            chunks s.params.chunkSize block ++ chunks s.params.chunkSize crc ++
            chunks s.params.chunkSize pad ++ [[]]) ++ rest) :=
  ⟨idleWith (hostWriteAt params 0x000 3#32 ::
      (exchangeAnswers 6 (List.replicate 6 0#8) [] 0x00#8 [] ++
        answersOf ([[]] ++ [0xFF#8].map (fun b => [b]) ++ [[0xFE#8]] ++
          chunks 6 (List.replicate 512 0#8) ++ chunks 6 (List.replicate 2 0#8) ++
          chunks 6 (List.replicate 8 0#8) ++ [[]]) ++ [])),
    List.replicate 6 0#8, [], [0xFF#8], List.replicate 512 0#8, List.replicate 2 0#8,
    List.replicate 8 0#8, [], idleWith_inv _, rfl, rfl, by decide, by decide,
    List.length_replicate, rfl, rfl, rfl⟩

theorem witness_WriteBlockSendsData :
    ∃ (s : State) (back before tok sent crc pad : List Byte) (zeros : Nat) (status : Byte)
      (rest : List Event), s.Inv ∧ s.busy = false ∧ back.length = 6 ∧
      (∀ b ∈ before, b.getLsbD 7 = true) ∧ tok.length = 1 ∧ sent.length = 512 ∧ crc.length = 2 ∧
      pad.length = 8 ∧ status ≠ 0x00#8 ∧
      s.inbox = hostWriteAt s.params 0x000 4#32 ::
        (exchangeAnswers s.params.chunkSize back before 0x00#8 [] ++
          answersOf ([[], tok] ++ chunks s.params.chunkSize sent ++ chunks s.params.chunkSize crc ++
            List.replicate zeros [0x00#8] ++ [[status]] ++ chunks s.params.chunkSize pad ++
            [[]]) ++ rest) :=
  ⟨idleWith (hostWriteAt params 0x000 4#32 ::
      (exchangeAnswers 6 (List.replicate 6 0#8) [] 0x00#8 [] ++
        answersOf ([[], [0#8]] ++ chunks 6 (List.replicate 512 0#8) ++
          chunks 6 (List.replicate 2 0#8) ++ List.replicate 2 [0x00#8] ++ [[0x05#8]] ++
          chunks 6 (List.replicate 8 0#8) ++ [[]]) ++ [])),
    List.replicate 6 0#8, [], [0#8], List.replicate 512 0#8, List.replicate 2 0#8,
    List.replicate 8 0#8, 2, 0x05#8, [], idleWith_inv _, rfl, rfl, by decide, rfl,
    List.length_replicate, rfl, rfl, by decide, rfl⟩

theorem witness_TimeGoesForwardInAnOperation :
    (∀ n ∈ [0, 5], (poweringUp [.time n]).busy = true ∧
      (poweringUp [.time n]).wraps * 2 ^ 64 + (poweringUp [.time n]).now ≤ n) ∧
    (let s := { poweringUp [.time 3] with now := 4 }
     s.busy = true ∧ 3 < s.wraps * 2 ^ s.params.timeWidth + s.now) ∧
    (after (step (poweringUp [.time 5]))).isSome = true ∧
    (idleWith [.otherAgent]).busy = false ∧ (poweringUp [.otherAgent]).busy = true := by decide

end Sys2Proof.Tests
end

section
/-! PROOFS. Reset has the block's invariant, and every case of `Stepped` keeps it: O3 and O40. -/

namespace Sys2Proof.Machine

/-! ## Reset (R46) -/

/-- R6's defaults are legal, at every tick rate and window base. -/
theorem standard_params_wf (ticks base : Nat) : (Params.standard ticks base).wf := by
  simp [Params.standard, Params.wf]

@[simp] theorem resetWith_seq (p : Params) : (State.resetWith p).seq = .idle := rfl
@[simp] theorem resetWith_busy (p : Params) : (State.resetWith p).busy = false := rfl
@[simp] theorem resetWith_wire (p : Params) : (State.resetWith p).wire = [] := rfl

/-- The block is idle after reset, so of the clauses about a running operation none says anything; the
time input and both anchors are 0. -/
theorem resetWith_inv {p : Params} (hp : p.wf) : (State.resetWith p).Inv := by
  have hpos : 0 < 2 ^ p.timeWidth := Nat.two_pow_pos _
  exact {
    params := hp
    data := rfl
    wcopy := rfl
    busy := by simp
    running := by simp
    errDetail := rfl
    owned := rfl
    bracket := rfl
    request := rfl
    inRange := by simp
    bulks := by simp
    latched := by simp
    length := by simp
    frame := by simp
    cause := by simp
    initst := by simp
    time := ⟨hpos, hpos, hpos⟩ }

/-! ## The moves that no lemma of Laws/Invariant.lean names -/

/-- A new time is below 2^TIME_WIDTH, and the anchors stay (R47). -/
theorem State.Inv.setTime {s : State} (h : s.Inv) (n : Nat) : (s.setTime n).Inv :=
  h.same rfl rfl rfl rfl rfl rfl rfl rfl rfl rfl (Nat.mod_lt _ (Nat.two_pow_pos _))
    rfl rfl rfl rfl rfl rfl rfl rfl rfl rfl

/-- Running what FRAME decodes to keeps the invariant: whatever the row, FRAME itself is sent (R171). -/
theorem State.Inv.frameRow {s t : State} (h : s.Inv) {w : Cmd} {i : Instr}
    (hs : s.seq = .run (.issueCmd w)) (hd : decode .cmdFrame s.frame.toList = .ok i)
    (he : exec i s = .next t) : t.Inv := by
  obtain ⟨u, hu, hsend⟩ := exec_frame hd he
  exact h.sendFrame hs hu hsend

/-- Sending the token keeps the invariant: it opens a one-byte transfer inside the bracket of WRITE_BLOCK's
data exchange (R257). -/
theorem State.Inv.sendToken {s t : State} (h : s.Inv) (hs : s.seq = .run .issueToken)
    (he : exec .dataStart s = .next t) : t.Inv := by
  have ho : s.csOwned = true := by rw [h.owned, hs]; rfl
  have ht : exec .dataStart s = .next (s.beginXfer .token) := by simp [exec, execDataStart, hs]
  cases ht.symm.trans he
  exact (h.toRunning hs).beginXfer .token ho rfl (by simp [Xfer.size]) (by simp)

/-! ## Every step -/

/-- Each way a step reaches a next state keeps the invariant. -/
theorem Stepped.keeps_inv {s t : State} (hst : Stepped s t) (h : s.Inv) : t.Inv := by
  cases hst with
  | host a rest i hi hf he => exact (h.inbox rest).host (fetchHost_format hf) he
  | reset rest hi ht => exact ht ▸ (h.inbox rest).reset
  | time n rest hi hn ht => exact ht ▸ (h.inbox rest).setTime n
  | otherAgent rest hi hb ht => exact ht ▸ h.inbox rest
  | stale a rest hi ht => exact ht ▸ h.inbox rest
  | start op hs ht => exact ht ▸ h.start hs
  | frame w i hs hd he => exact h.frameRow hs hd he
  | token hs he => exact h.sendToken hs he
  | dropped a rest hi ho hr ht => exact ht ▸ h.inbox rest
  | wire a rest r p i hi hr hs ho hfit hw he => exact h.wire hs a rest hw he
  | answer a rest r p hi hr hs ho hfit hw ht => exact ht ▸ h.onAnswer hs a rest r hr hfit
  | again hi ho hc ht => exact ht ▸ h.inbox s.cycle
  | waits hi hs ht => exact ht ▸ h

/-! ## The obligations -/

/-- Settles O40: by the cases of what a step can do (`step_inv`). -/
theorem stepKeepsTheInvariant : Obligations.StepKeepsTheInvariant := by
  unfold Obligations.StepKeepsTheInvariant
  intro s t h hstep
  exact (step_inv hstep).keeps_inv h

/-- Settles O3: `Config.default` is R6's defaults, which are legal. -/
theorem resetSatisfiesTheInvariant : Obligations.ResetSatisfiesTheInvariant := by
  unfold Obligations.ResetSatisfiesTheInvariant
  exact ⟨resetWith_inv (standard_params_wf _ _), fun _ hp => resetWith_inv hp⟩

end Sys2Proof.Machine
end

section
/-! PROOFS. What one step is, by the input at the head of the inbox, and what a host access does: the
statements about whole steps go through these equations. -/

namespace Sys2Proof.Machine

/-! ## The step by the input at the head of the inbox (R5) -/

/-- What a move comes to. -/
def Move.outcome : Move → Host.Outcome State Fault Refusal
  | .execute i s => exec i s
  | .done o => o

theorem step_eq_outcome (s : State) : step s = (nextMove s).outcome := by
  unfold step
  cases nextMove s <;> rfl

section
variable {s : State} {rest : List Event}

theorem step_host_ok {a : HostAccess} {i : Instr} (hi : s.inbox = .host a :: rest)
    (hf : fetchHost s.params a = .ok i) : step s = exec i { s with inbox := rest } := by
  simp [step, nextMove, hi, hostMove, hf]

theorem step_host_error {a : HostAccess} {r : Refusal} (hi : s.inbox = .host a :: rest)
    (hf : fetchHost s.params a = .error r) : step s = .refused r := by
  simp [step, nextMove, hi, hostMove, hf]

theorem step_reset (hi : s.inbox = .reset :: rest) :
    step s = .next ({ s with inbox := rest }.applyReset) := by
  simp [step, nextMove, hi]

theorem step_time {n : Nat} (hi : s.inbox = .time n :: rest) :
    step s = (timeMove { s with inbox := rest } n).outcome := by
  rw [step_eq_outcome, nextMove, hi]

theorem step_otherAgent (hi : s.inbox = .otherAgent :: rest) :
    step s = (otherAgentMove { s with inbox := rest }).outcome := by
  rw [step_eq_outcome, nextMove, hi]

theorem step_stale {a : Answer} (hi : s.inbox = .staleAnswer a :: rest) :
    step s = .next { s with inbox := rest } := by
  simp [step, nextMove, hi]

/-- Where the sequencer has a move of its own, an answer waits for it. -/
theorem step_answer_own {a : Answer} {m : Move} (hi : s.inbox = .answer a :: rest)
    (ho : ownMove s = some m) : step s = m.outcome := by
  rw [step_eq_outcome, nextMove, hi, ho]

theorem step_answer_move {a : Answer} (hi : s.inbox = .answer a :: rest)
    (ho : ownMove s = none) : step s = (answerMove { s with inbox := rest } a).outcome := by
  rw [step_eq_outcome, nextMove, hi, ho]

theorem step_nil_own {m : Move} (hi : s.inbox = []) (ho : ownMove s = some m) :
    step s = m.outcome := by
  rw [step_eq_outcome, nextMove, hi, ho]

theorem step_again {e : Event} {es : List Event} (hi : s.inbox = []) (ho : ownMove s = none)
    (hc : s.cycle = e :: es) : step s = .next { s with inbox := e :: es } := by
  simp [step, nextMove, hi, ho, hc]

theorem step_nil_idle (hi : s.inbox = []) (hc : s.cycle = []) (hs : s.seq = .idle) :
    step s = .next s := by
  simp [step, nextMove, hi, hc, hs, ownMove]

theorem step_nil_stuck (hi : s.inbox = []) (ho : ownMove s = none) (hc : s.cycle = [])
    (hs : s.seq ≠ .idle) : step s = .fault .stuck := by
  simp [step, nextMove, hi, ho, hc, hs]

/-- A host access that answers a next state was fetched, and ran. -/
theorem step_host_next {t : State} {a : HostAccess} (hi : s.inbox = .host a :: rest)
    (h : step s = .next t) :
    ∃ i, fetchHost s.params a = .ok i ∧ exec i { s with inbox := rest } = .next t := by
  cases hf : fetchHost s.params a with
  | ok i => exact ⟨i, rfl, (step_host_ok hi hf).symm.trans h⟩
  | error r => cases (step_host_error hi hf).symm.trans h

end

/-! ## Formats -/

/-- A command frame decodes to a row of the CMD_FRAME format (R104). -/
theorem decodeFrameFields_format (idx : BitVec 6) (arg : Word) (crc : BitVec 7) :
    (decodeFrameFields idx arg crc).format = .cmdFrame := by
  unfold decodeFrameFields
  simp only [apply_ite Instr.format]
  simp only [Instr.format, ite_self]

theorem decode_cmdFrame_format {l : List Byte} {i : Instr} (h : decode .cmdFrame l = .ok i) :
    i.format = .cmdFrame := by
  match l, h with
  | [b0, b1, b2, b3, b4, b5], h =>
    simp only [decode, decodeFrame] at h
    split at h
    · cases h
    · split at h
      · cases h
      · rw [← Except.ok.inj h]; exact decodeFrameFields_format _ _ _
  | [], h | [_], h | [_, _], h | [_, _, _], h | [_, _, _, _], h | [_, _, _, _, _], h
  | _ :: _ :: _ :: _ :: _ :: _ :: _ :: _, h => cases h

/-- What a byte read in the R1 poll decodes to (R105). -/
theorem decode_r1_eq {l : List Byte} {i : Instr} (h : (decode .r1 l).toOption = some i) :
    ∃ e j, i = .r1 e j := by
  match l, h with
  | [b], h =>
    simp only [decode, decodeR1] at h
    split at h
    · cases h
    · cases h; exact ⟨_, _, rfl⟩
  | [], h | _ :: _ :: _, h => cases h

theorem decode_dataStart_eq {l : List Byte} {i : Instr}
    (h : (decode .dataStart l).toOption = some i) : i = .dataStart := by
  match l, h with
  | [b], h =>
    simp only [decode, decodeDataStart] at h
    split at h
    · cases h; rfl
    · cases h
  | [], h | _ :: _ :: _, h => cases h

theorem decode_writeStatus_eq {l : List Byte} {i : Instr}
    (h : (decode .writeStatus l).toOption = some i) : ∃ b, i = .writeStatus b := by
  match l, h with
  | [b], h => cases h; exact ⟨b, rfl⟩
  | [], h | _ :: _ :: _, h => cases h

/-- The wire row an answer completes, and the point at which it completes it. -/
inductive WireRow (s : State) (p : Point) (a : Answer) : Instr → Prop where
  | r1 (w : Cmd) (e : BitVec 6) (j : BitVec 1) (hp : p = .poll (.r1 w)) : WireRow s p a (.r1 e j)
  | dataStart (hp : p = .poll .token) : WireRow s p a .dataStart
  | writeStatus (b : Byte) (hp : p = .poll .wbusy) : WireRow s p a (.writeStatus b)
  | r1Payload (w : Cmd) (c : Nat) (bs : List Byte) (e : BitVec 6) (j : BitVec 1) (q : Word)
      (hp : p = .xfer (.rest w) c) (ha : a = .ok bs)
      (hd : (decode .r1Payload (s.resp.toList.take (1 + c * s.params.chunkSize) ++ bs)).toOption =
        some (.r1Payload e j q)) : WireRow s p a (.r1Payload e j q)

theorem fetchWire_row {s : State} {p : Point} {a : Answer} {i : Instr}
    (h : fetchWire s p a = some i) : WireRow s p a i := by
  unfold fetchWire at h
  split at h
  · obtain ⟨e, j, rfl⟩ := decode_r1_eq h; exact .r1 _ e j rfl
  · obtain rfl := decode_dataStart_eq h; exact .dataStart rfl
  · obtain ⟨b, rfl⟩ := decode_writeStatus_eq h; exact .writeStatus b rfl
  · split at h
    · obtain ⟨e, j, q, rfl⟩ := decode_r1Payload h
      exact .r1Payload _ _ _ e j q rfl rfl h
    · cases h
  all_goals cases h

theorem WireRow.format_ne_host {s : State} {p : Point} {a : Answer} {i : Instr}
    (h : WireRow s p a i) : i.format ≠ .hostAccess := by
  cases h <;> simp [Instr.format]

/-! ## The meaning of a frame row (R100, R104) -/

/-- What a frame row leaves in ACMD41CNT: INIT's own ACMD41 counts, and nothing else does (R29). -/
def frameCount (i : Instr) (q : Seq) (n : Word) : Word :=
  if i = .acmd41 ∧ q = .run (.issueCmd .acmd41) then saturatingSucc n else n

theorem frameCount_cases (i : Instr) (q : Seq) (n : Word) :
    frameCount i q n = n ∨
      (q = .run (.issueCmd .acmd41) ∧ frameCount i q n = saturatingSucc n) := by
  unfold frameCount
  split
  · rename_i h; exact .inr ⟨h.2, rfl⟩
  · exact .inl rfl

/-- Every frame row counts and then sends its bytes. -/
theorem exec_frameRow {i : Instr} (hi : i.format = .cmdFrame) :
    ∃ f, ∀ s, exec i s = sendFrame f { s with acmd41cnt := frameCount i s.seq s.acmd41cnt } := by
  cases i <;> cases hi
  case acmd41 =>
    refine ⟨#v[0x69#8, 0x40#8, 0x00#8, 0x00#8, 0x00#8, 0x77#8], fun s => ?_⟩
    simp only [exec, execAcmd41, frameCount, true_and]
    split <;> rfl
  all_goals exact ⟨_, fun _ => rfl⟩

theorem sendFrame_at {s : State} {w : Cmd} (hs : s.seq = .run (.issueCmd w)) (f : Vector Byte 6) :
    sendFrame f s = .next (s.openCommand w f) := by
  simp [sendFrame, hs]

theorem sendFrame_elsewhere {s : State} (hs : ∀ w, s.seq ≠ .run (.issueCmd w))
    (f : Vector Byte 6) : sendFrame f s = .refused .wireOutOfPlace := by
  unfold sendFrame
  split
  · rename_i w h; exact absurd h (hs w)
  all_goals rfl

/-! ## The meaning of a host access (R113) -/

/-- What the instruction fetched for a host access does, in every state: it reads; or it is a CTRL write,
at offset 0; or it writes an operand register or DATA, if it is not dropped; or it is ignored. -/
inductive HostEffect (p : Params) (a : HostAccess) (i : Instr) : Prop where
  | read (off : BitVec 10) (hw : a.write = false) (hi : i = .hostRead off)
  | ctrl (op : BitVec 3) (hw : a.write = true) (ha : a.addr = p.regBase)
      (hx : ∀ s, exec i s = ctrlGo op s)
  | operand (f : State → State) (hx : ∀ s, exec i s = hostWrite s (f s))
      (hf : ∀ s, f s = { s with
        cmdIdx := (f s).cmdIdx, arg := (f s).arg, respLen := (f s).respLen, crcAcc := (f s).crcAcc,
        data := (f s).data })
      (hc : ∀ s c, f { s with csst := c } = { f s with csst := c })
  | ignored (hx : ∀ s, exec i s = .next s)

theorem exec_decodeCtrl (op : BitVec 3) (s : State) : exec (decodeCtrl op) s = ctrlGo op s := by
  fin_cases op <;> rfl

theorem decodeLowWrite_effect {p : Params} {a : HostAccess} (hw : a.write = true)
    {off : BitVec 10} (ho : off = 0#10 → a.addr = p.regBase) (data : Word) :
    HostEffect p a (decodeLowWrite off data) := by
  unfold decodeLowWrite
  refine iteInduction (fun h => .ctrl _ hw (ho h) (exec_decodeCtrl _)) fun _ => ?_
  refine iteInduction (fun _ => .ignored fun _ => rfl) fun _ => ?_
  refine iteInduction (fun _ => .operand (fun s => { s with cmdIdx := data.extractLsb' 0 6 })
    (fun _ => rfl) (fun _ => rfl) fun _ _ => rfl) fun _ => ?_
  refine iteInduction (fun _ => .operand (fun s => { s with arg := data })
    (fun _ => rfl) (fun _ => rfl) fun _ _ => rfl) fun _ => ?_
  refine iteInduction (fun _ => .operand (fun s => { s with respLen := data.extractLsb' 0 4 })
    (fun _ => rfl) (fun _ => rfl) fun _ _ => rfl) fun _ => ?_
  refine iteInduction (fun _ => .operand (fun s => { s with crcAcc := data.extractLsb' 0 7 })
    (fun _ => rfl) (fun _ => rfl) fun _ _ => rfl) fun _ => ?_
  refine iteInduction (fun _ => .operand
    (fun s => { s with crcAcc := crc7Update (data.extractLsb' 0 8) s.crcAcc })
    (fun _ => rfl) (fun _ => rfl) fun _ _ => rfl) fun _ => ?_
  iterate 5 refine iteInduction (fun _ => .ignored fun _ => rfl) fun _ => ?_
  exact .ignored fun _ => rfl

theorem decodeWrite_effect {p : Params} {a : HostAccess} (hw : a.write = true)
    {off : BitVec 10} (ho : off = 0#10 → a.addr = p.regBase) (data : Word) :
    HostEffect p a (decodeWrite off data) := by
  unfold decodeWrite
  refine iteInduction (fun _ => .operand (fun s => s.putData (4 * (off.extractLsb' 2 7).toNat)
    [data.extractLsb' 0 8, data.extractLsb' 8 8, data.extractLsb' 16 8, data.extractLsb' 24 8])
    (fun _ => rfl) (fun _ => rfl) fun _ _ => rfl) fun _ => ?_
  iterate 4 refine iteInduction (fun _ => .ignored fun _ => rfl) fun _ => ?_
  exact decodeLowWrite_effect hw ho data

theorem fetchHost_effect {p : Params} {a : HostAccess} {i : Instr} (h : fetchHost p a = .ok i) :
    HostEffect p a i := by
  unfold fetchHost at h
  split at h; · cases h
  split at h; · cases h
  rename_i hin
  have hbase : BitVec.ofNat 10 (a.addr - p.regBase) = 0#10 → a.addr = p.regBase := by
    intro h0
    have := congrArg BitVec.toNat h0
    simp only [BitVec.toNat_ofNat] at this
    omega
  unfold decodeHost at h
  split at h
  · rename_i j hd
    split at hd
    · cases hd
    · split at hd
      · rename_i hw
        cases hd; cases h
        exact decodeWrite_effect hw hbase _
      · rename_i hw
        cases hd; cases h
        exact .read _ (by simpa using hw) rfl
  · cases h

section
variable {p : Params} {a : HostAccess} {i : Instr} {s t : State}

/-- While an operation runs, a host access changes only WIGN, which it may set, the value read and the
count of draws (R68, R69). -/
theorem HostEffect.next_busy (h : HostEffect p a i) (hb : s.busy = true)
    (he : exec i s = .next t) :
    t = { s with wign := t.wign, rdata := t.rdata, draws := t.draws } ∧
      (s.wign = true → t.wign = true) := by
  have dropped : ∀ u, hostWrite s u = .next s.dropWrite := fun u => by simp [hostWrite, hb]
  cases h with
  | read off hw hi =>
    subst hi
    have ht := execHostRead_next he
    rw [ht]
    exact ⟨rfl, id⟩
  | ctrl op hw ha hx =>
    rw [hx, ctrlGo, if_pos hb] at he
    cases he
    exact ⟨rfl, fun _ => rfl⟩
  | operand f hx hf hc =>
    rw [hx, dropped] at he
    cases he
    exact ⟨rfl, fun _ => rfl⟩
  | ignored hx =>
    rw [hx] at he
    cases he
    exact ⟨rfl, id⟩

/-- What a host access may change at all, busy or not: no result register, not WCOPY, CSST, the port or
the time input. -/
theorem HostEffect.next_keeps (h : HostEffect p a i) (he : exec i s = .next t) :
    t = { s with
      ctrlOp := t.ctrlOp, busy := t.busy, done := t.done, wign := t.wign, err := t.err,
      detail := t.detail, cmdIdx := t.cmdIdx, arg := t.arg, respLen := t.respLen,
      crcAcc := t.crcAcc, data := t.data, seq := t.seq, lOp := t.lOp, lIdx := t.lIdx,
      lArg := t.lArg, lLen := t.lLen, csOwned := t.csOwned, rdata := t.rdata, draws := t.draws } := by
  cases h with
  | read off hw hi =>
    subst hi
    rw [execHostRead_next he]
  | ctrl op hw ha hx =>
    rw [hx] at he
    unfold ctrlGo at he
    split at he
    · cases he; rfl
    · split at he
      · cases he; rfl
      · split at he <;> (cases he; rfl)
  | operand f hx hf hc =>
    rw [hx] at he
    unfold hostWrite at he
    split at he
    · cases he; rfl
    · cases he; rw [hf]
  | ignored hx =>
    rw [hx] at he
    cases he
    rfl

/-- Of the host accesses only a CTRL write touches ERR, DETAIL and DONE (R42, R132). -/
theorem HostEffect.next_status (h : HostEffect p a i) (he : exec i s = .next t) :
    (a.write = true ∧ a.addr = p.regBase) ∨
      (t.err = s.err ∧ t.detail = s.detail ∧ t.done = s.done) := by
  cases h with
  | read off hw hi =>
    subst hi
    rw [execHostRead_next he]
    exact .inr ⟨rfl, rfl, rfl⟩
  | ctrl op hw ha hx => exact .inl ⟨hw, ha⟩
  | operand f hx hf hc =>
    rw [hx] at he
    unfold hostWrite at he
    split at he
    · cases he; exact .inr ⟨rfl, rfl, rfl⟩
    · cases he; rw [hf]; exact .inr ⟨rfl, rfl, rfl⟩
  | ignored hx =>
    rw [hx] at he
    cases he
    exact .inr ⟨rfl, rfl, rfl⟩

/-- A host access that is refused when it runs is a misaligned read (R63). -/
theorem HostEffect.refused (h : HostEffect p a i) {r : Refusal} (he : exec i s = .refused r) :
    r = .misaligned := by
  cases h with
  | read off hw hi =>
    subst hi
    have he : execHostRead off s = .refused r := he
    unfold execHostRead at he
    split at he
    · cases he; rfl
    · split at he
      · split at he <;> cases he
      · cases he
  | ctrl op hw ha hx =>
    rw [hx] at he
    unfold ctrlGo at he
    split at he
    · cases he
    · split at he
      · cases he
      · split at he <;> cases he
  | operand f hx hf hc =>
    rw [hx] at he
    unfold hostWrite at he
    split at he <;> cases he
  | ignored hx =>
    rw [hx] at he
    cases he

end

end Sys2Proof.Machine
end

section
/-! PROOFS. The registers that no move of the sequencer reads: the five operand registers (R37, R78) and
STATUS.CSST (R41). Replacing them commutes with every step but a host access and a reset. -/

namespace Sys2Proof.Machine

/-- Values for CTRL.OP, CMD.IDX, ARG, RESPLEN.LEN and CRC.ACC. -/
structure Operands where
  ctrlOp : BitVec 3
  cmdIdx : BitVec 6
  arg : Word
  respLen : BitVec 4
  crcAcc : BitVec 7

/-- The operand registers as they stand. -/
def State.operands (s : State) : Operands := ⟨s.ctrlOp, s.cmdIdx, s.arg, s.respLen, s.crcAcc⟩

/-- The same block with other operand registers and another STATUS.CSST. -/
def State.reload (s : State) (v : Operands) (c : CsState) : State :=
  { s with
    ctrlOp := v.ctrlOp, cmdIdx := v.cmdIdx, arg := v.arg, respLen := v.respLen, crcAcc := v.crcAcc,
    csst := c }

/-- A change of the next state, where a step has one. -/
def onNext (f : State → State) :
    Host.Outcome State Fault Refusal → Host.Outcome State Fault Refusal
  | .next s => .next (f s)
  | .fault r => .fault r
  | .refused r => .refused r

/-- The same move of a block with other operand registers and another STATUS.CSST. -/
def Move.reload (v : Operands) (c : CsState) : Move → Move
  | .execute i s => .execute i (s.reload v c)
  | .done o => .done (onNext (·.reload v c) o)

/-- STATUS.CSST after the answer to the request of a point (R41). -/
def Point.csstAfter (c : CsState) : Point → Answer → CsState
  | .csOn _, .ok _ => .asserted
  | .csOff _, .ok _ | .failCs _ _, .ok _ => .deasserted
  | .csOn _, .fail | .csOff _, .fail | .failCs _ _, .fail => .unknown
  | .start _, _ | .issueCmd _, _ | .xfer _ _, _ | .poll _, _ | .issueToken, _ => c

/-- STATUS.CSST after the next step, where it is `c` before it: it changes with an answer that the request
outstanding can have, and with nothing else (a reset apart). -/
def State.nextCsst (s : State) (c : CsState) : CsState :=
  match s.inbox, s.req, s.seq with
  | .answer a :: _, some r, .run p => if r.fits a then p.csstAfter c a else c
  | _, _, _ => c

section
variable (s : State) (v : Operands) (c : CsState)

@[simp] theorem reload_seq : (s.reload v c).seq = s.seq := rfl
@[simp] theorem reload_frame : (s.reload v c).frame = s.frame := rfl
@[simp] theorem reload_csOwned : (s.reload v c).csOwned = s.csOwned := rfl

theorem reload_self : s.reload s.operands s.csst = s := rfl

/-- A choice between two moves commutes if both moves do. -/
theorem reload_ite {P : Prop} {h h' : Decidable P} {t t' u u' : State}
    (ht : t' = t.reload v c) (hu : u' = u.reload v c) :
    @ite _ P h t' u' = (@ite _ P h' t u).reload v c := by
  by_cases hP : P
  · rw [if_pos hP, if_pos hP, ht]
  · rw [if_neg hP, if_neg hP, hu]

/-! ## The shared operations -/

theorem reload_beginXfer (x : Xfer) :
    (s.reload v c).beginXfer x = (s.beginXfer x).reload v c := by
  unfold State.beginXfer
  rw [outgoing_congr (s := s) (t := s.reload v c) x rfl rfl rfl rfl rfl]
  rfl

theorem reload_enterCmd (w : Cmd) : (s.reload v c).enterCmd w = (s.enterCmd w).reload v c := by
  unfold State.enterCmd
  rw [idx_congr (s := s) (t := s.reload v c) w rfl, arg_congr (s := s) (t := s.reload v c) w rfl]
  rfl

theorem reload_raise (d : Detail) : (s.reload v c).raise d = (s.raise d).reload v c := by
  unfold State.raise
  rw [reload_seq]
  split
  · rfl
  · rw [reload_csOwned]; split <;> rfl

theorem reload_deadline (k : PollKind) : k.deadline (s.reload v c) = k.deadline s := by
  cases k with
  | r1 w => cases w <;> rfl
  | _ => rfl

theorem reload_pollMiss (k : PollKind) :
    (s.reload v c).pollMiss k = (s.pollMiss k).reload v c := by
  have hl : (s.reload v c).late (s.reload v c).t0 (k.deadline (s.reload v c)) =
      s.late s.t0 (k.deadline s) := by rw [reload_deadline]; rfl
  unfold State.pollMiss
  rw [hl]
  split
  · exact reload_raise s v c _
  · rfl

theorem reload_storeR1 (w : Cmd) (r : Byte) :
    (s.reload v c).storeR1 w r = (s.storeR1 w r).reload v c := by
  have hlen : w.len ((s.reload v c).putResp 0 [r]) = w.len (s.putResp 0 [r]) :=
    len_congr w rfl rfl
  unfold State.storeR1
  dsimp only
  rw [hlen]
  split
  · exact reload_beginXfer (s.putResp 0 [r]) v c _
  · rfl

theorem reload_land (x : Xfer) (n : Nat) (bs : List Byte) :
    (s.reload v c).land x n bs = (s.land x n bs).reload v c := by
  cases x <;> rfl

theorem reload_lose (x : Xfer) (n : Nat) :
    (s.reload v c).lose x n = (s.lose x n).reload v c := by
  unfold State.lose
  rw [size_congr (s := s) (t := s.reload v c) x rfl rfl]
  cases x <;> rfl

theorem reload_moreChunks (x : Xfer) (n : Nat) :
    (s.reload v c).moreChunks x n = s.moreChunks x n := by
  unfold State.moreChunks
  rw [size_congr (s := s) (t := s.reload v c) x rfl rfl]
  rfl

/-! ## The sequencer's moves -/

theorem reload_startOp (op : Op) : (s.reload v c).startOp op = (s.startOp op).reload v c := by
  cases op with
  | sendCmd => exact reload_enterCmd s v c _
  | init => exact reload_beginXfer { s with acmd41cnt := 0#32, initst := .powerup } v c _
  | readBlock => exact reload_enterCmd s v c _
  | writeBlock => exact reload_enterCmd { s with wcopy := s.data, wresp := 0x00#8 } v c _

theorem reload_afterCsOn (b : Exchange) :
    (s.reload v c).afterCsOn b = (s.afterCsOn b).reload v c := by
  cases b with
  | cmd w => exact reload_beginXfer s v c _
  | _ => rfl

theorem reload_afterXfer (x : Xfer) :
    (s.reload v c).afterXfer x = (s.afterXfer x).reload v c := by
  cases x with
  | powerUp => exact reload_enterCmd { s with initst := .reset } v c _
  | block | readCrc | token | copy => exact reload_beginXfer s v c _
  | frame _ | rest _ | readPad | dummyCrc | writePad => rfl

theorem reload_afterCmd (w : Cmd) : (s.reload v c).afterCmd w = (s.afterCmd w).reload v c := by
  have hraise := reload_raise s v c
  have henter := fun u : State => reload_enterCmd u v c
  cases w with
  | user => rfl
  | cmd0 => exact reload_ite v c (henter { s with initst := .ifcheck } _) (hraise _)
  | cmd8 =>
    exact reload_ite v c (hraise _) (reload_ite v c (hraise _)
      (henter { s with initst := .voltneg, t0Init := s.now } _))
  | cmd55 => exact reload_ite v c (henter s _) (hraise _)
  | acmd41 => exact reload_ite v c rfl (reload_ite v c (hraise _) (henter s _))
  | cmd17 | cmd24 => exact reload_ite v c rfl (hraise _)

theorem reload_afterCsOff (b : Exchange) :
    (s.reload v c).afterCsOff b = (s.afterCsOff b).reload v c := by
  cases b with
  | cmd w => exact reload_afterCmd s v c w
  | _ => rfl

/-- An answer sets CSST as R41 says, and goes on as it would with any CSST before it. -/
theorem reload_onAnswer (p : Point) (a : Answer) :
    (s.reload v c).onAnswer p a = (s.onAnswer p a).reload v (p.csstAfter c a) := by
  cases p with
  | start _ | issueCmd _ | issueToken => rfl
  | csOn b =>
    cases a with
    | ok _ => exact reload_afterCsOn (s.csAssertAnswered true) v .asserted b
    | fail => exact reload_raise (s.csAssertAnswered false) v .unknown _
  | csOff b =>
    cases a with
    | ok _ => exact reload_afterCsOff (s.csDeassertAnswered true) v .deasserted b
    | fail => exact reload_raise (s.csDeassertAnswered false) v .unknown _
  | failCs op d => cases a <;> rfl
  | poll k =>
    cases a with
    | ok _ => exact reload_pollMiss s v c k
    | fail => exact reload_raise s v c _
  | xfer x n =>
    cases a with
    | ok bs =>
      simp only [State.onAnswer, Point.csstAfter, reload_land, reload_moreChunks]
      split
      · rw [outgoing_congr (s := s.land x n bs) (t := (s.land x n bs).reload v c) x
          rfl rfl rfl rfl rfl]
        rfl
      · exact reload_afterXfer (s.land x n bs) v c x
    | fail =>
      simp only [State.onAnswer, Point.csstAfter, reload_lose]
      exact reload_raise (s.lose x n) v c _

/-! ## The instructions that are no host access -/

theorem reload_sendFrame (f : Vector Byte 6) :
    sendFrame f (s.reload v c) = onNext (·.reload v c) (sendFrame f s) := by
  by_cases h : ∃ w, s.seq = .run (.issueCmd w)
  · obtain ⟨w, hs⟩ := h
    rw [sendFrame_at hs, sendFrame_at (s := s.reload v c) hs]
    rfl
  · have hs : ∀ w, s.seq ≠ .run (.issueCmd w) := fun w hw => h ⟨w, hw⟩
    rw [sendFrame_elsewhere hs, sendFrame_elsewhere (s := s.reload v c) hs]
    rfl

theorem reload_execR1 (e : BitVec 6) (j : BitVec 1) :
    execR1 e j (s.reload v c) = onNext (·.reload v c) (execR1 e j s) := by
  unfold execR1
  rw [reload_seq]
  split
  · rw [reload_storeR1]; rfl
  all_goals rfl

theorem reload_execR1Payload (e : BitVec 6) (j : BitVec 1) (q : Word) :
    execR1Payload e j q (s.reload v c) = onNext (·.reload v c) (execR1Payload e j q s) := by
  unfold execR1Payload
  rw [reload_seq]
  split <;> rfl

theorem reload_execDataStart :
    execDataStart (s.reload v c) = onNext (·.reload v c) (execDataStart s) := by
  unfold execDataStart
  rw [reload_seq]
  split
  · rw [reload_beginXfer]; rfl
  · rw [reload_beginXfer]; rfl
  all_goals rfl

theorem reload_execWriteStatus (b : Byte) :
    execWriteStatus b (s.reload v c) = onNext (·.reload v c) (execWriteStatus b s) := by
  unfold execWriteStatus
  rw [reload_seq]
  split
  · split
    · rw [reload_pollMiss]; rfl
    · exact congrArg Host.Outcome.next (reload_beginXfer { s with wresp := b } v c _)
  all_goals rfl

/-- The rows that are no host access. -/
theorem wireRow_cases {i : Instr} (hi : i.format ≠ .hostAccess) :
    i.format = .cmdFrame ∨ (∃ e j, i = .r1 e j) ∨ (∃ e j q, i = .r1Payload e j q) ∨
      i = .dataStart ∨ ∃ b, i = .writeStatus b := by
  cases i <;> simp [Instr.format] at hi ⊢

/-- A row that is no host access does the same with other operand registers and another CSST. -/
theorem reload_exec {i : Instr} (hi : i.format ≠ .hostAccess) :
    exec i (s.reload v c) = onNext (·.reload v c) (exec i s) := by
  obtain hf | ⟨e, j, rfl⟩ | ⟨e, j, q, rfl⟩ | rfl | ⟨b, rfl⟩ := wireRow_cases hi
  · obtain ⟨f, hx⟩ := exec_frameRow hf
    rw [hx, hx]
    exact reload_sendFrame { s with acmd41cnt := frameCount i s.seq s.acmd41cnt } v c f
  · exact reload_execR1 s v c e j
  · exact reload_execR1Payload s v c e j q
  · exact reload_execDataStart s v c
  · exact reload_execWriteStatus s v c b

/-! ## The moves and the step -/

theorem reload_outcome {m : Move} (h : ∀ i u, m = .execute i u → i.format ≠ .hostAccess) :
    (m.reload v c).outcome = onNext (·.reload v c) m.outcome := by
  cases m with
  | execute i u => exact reload_exec u v c (h i u rfl)
  | done o => rfl

theorem reload_ownMove : ownMove (s.reload v c) = (ownMove s).map (·.reload v c) := by
  unfold ownMove
  rw [reload_seq, reload_frame]
  split
  · rw [reload_startOp]; rfl
  · split <;> rfl
  all_goals rfl

/-- The sequencer's own moves run no host access. -/
theorem ownMove_format {m : Move} (h : ownMove s = some m) (i : Instr) (u : State)
    (hm : m = .execute i u) : i.format ≠ .hostAccess := by
  subst hm
  unfold ownMove at h
  split at h
  · cases h
  · split at h
    · rename_i j hd
      cases h
      rw [decode_cmdFrame_format hd]
      simp
    · cases h
  · cases h; simp [Instr.format]
  all_goals cases h

theorem reload_ownMove_outcome {m : Move} (h : ownMove s = some m) :
    ∃ m', ownMove (s.reload v c) = some m' ∧ m'.outcome = onNext (·.reload v c) m.outcome :=
  ⟨m.reload v c, by rw [reload_ownMove, h]; rfl, reload_outcome v c (ownMove_format s h)⟩

theorem reload_fetchWire (p : Point) (a : Answer) :
    fetchWire (s.reload v c) p a = fetchWire s p a := by
  unfold fetchWire
  split
  case h_4 w n bs =>
    rw [reload_moreChunks, len_congr (s := s) (t := s.reload v c) w rfl rfl]
    rfl
  all_goals rfl

/-- At a point where the sequencer has a move of its own no request is outstanding, so an answer there
says nothing of CSST. -/
theorem csstAfter_ownMove {m : Move} (h : ownMove s = some m) {p : Point} (hs : s.seq = .run p)
    (a : Answer) : p.csstAfter c a = c := by
  cases p <;> simp [ownMove, hs] at h <;> rfl

/-- An answer that completes a wire row is one to a BULK, and says nothing of CSST. -/
theorem WireRow.csstAfter {s : State} {p : Point} {a : Answer} {i : Instr} (h : WireRow s p a i) :
    p.csstAfter c a = c := by
  cases h with
  | r1 w e j hp | writeStatus b hp => subst hp; rfl
  | dataStart hp => subst hp; rfl
  | r1Payload w n bs e j q hp => subst hp; rfl

theorem nextCsst_answer {a : Answer} {rest : List Event} {r : Request} {p : Point}
    (hi : s.inbox = .answer a :: rest) (hr : s.req = some r) (hs : s.seq = .run p)
    (hfit : r.fits a = true) : s.nextCsst c = p.csstAfter c a := by
  simp [State.nextCsst, hi, hr, hs, hfit]

theorem nextCsst_ownMove {m : Move} (h : ownMove s = some m) : s.nextCsst c = c := by
  unfold State.nextCsst
  split
  · rename_i hs
    split
    · exact csstAfter_ownMove s c h hs _
    · rfl
  · rfl

theorem nextCsst_no_answer (h : ∀ a rest, s.inbox ≠ .answer a :: rest) : s.nextCsst c = c := by
  unfold State.nextCsst
  split
  · rename_i hi _ _; exact absurd hi (h _ _)
  · rfl

theorem answerMove_wire {a : Answer} {r : Request} {p : Point} {i : Instr} (hr : s.req = some r)
    (hs : s.seq = .run p) (hfit : r.fits a = true) (hw : fetchWire s p a = some i) :
    answerMove s a = .execute i { s with req := none } := by
  unfold answerMove
  rw [hr, hs]
  simp [hfit, hw]

/-- With no request outstanding, or none of a running operation, an answer is dropped. -/
theorem answerMove_none {a : Answer} (h : s.req = none ∨ s.seq = .idle) :
    answerMove s a = .done (.next s) := by
  unfold answerMove
  split
  · rename_i hr hs; simp [hr, hs] at h
  · rfl

theorem nextCsst_dropped {a : Answer} {rest : List Event} (hi : s.inbox = .answer a :: rest)
    (h : s.req = none ∨ s.seq = .idle ∨ ∃ r, s.req = some r ∧ r.fits a = false) :
    s.nextCsst c = c := by
  unfold State.nextCsst
  split
  · rename_i hi' hr hs
    cases hi.symm.trans hi'
    simp only [hr, hs, reduceCtorEq, false_or, Option.some.injEq, exists_eq_left'] at h
    rw [h]
    rfl
  · rfl

/-- An answer taken from the inbox, where the sequencer has no move of its own. -/
theorem reload_answerMove {a : Answer} {rest : List Event} (hi : s.inbox = .answer a :: rest)
    {u : State} (hu : u = { s with inbox := rest }) :
    (answerMove (u.reload v c) a).outcome =
      onNext (·.reload v (s.nextCsst c)) (answerMove u a).outcome := by
  have hq : u.req = s.req := by rw [hu]
  have hs : u.seq = s.seq := by rw [hu]
  cases hr : s.req with
  | none =>
    have hn := hq.trans hr
    rw [nextCsst_dropped s c hi (.inl hr), answerMove_none u (.inl hn),
      answerMove_none (u.reload v c) (.inl hn)]
    rfl
  | some r =>
    have hn := hq.trans hr
    cases hp : s.seq with
    | idle =>
      have hidle := hs.trans hp
      rw [nextCsst_dropped s c hi (.inr (.inl hp)), answerMove_none u (.inr hidle),
        answerMove_none (u.reload v c) (.inr hidle)]
      rfl
    | run p =>
      have hrun := hs.trans hp
      cases hfit : r.fits a with
      | false =>
        rw [nextCsst_dropped s c hi (.inr (.inr ⟨r, hr, hfit⟩)), answerMove_drops hn hfit,
          answerMove_drops (s := u.reload v c) hn hfit]
        rfl
      | true =>
        rw [nextCsst_answer s c hi hr hp hfit]
        cases hw : fetchWire u p a with
        | some i =>
          have hw' : fetchWire (u.reload v c) p a = some i := by rw [reload_fetchWire, hw]
          rw [answerMove_wire u hn hrun hfit hw, answerMove_wire (u.reload v c) hn hrun hfit hw',
            (fetchWire_row hw).csstAfter]
          exact reload_exec { u with req := none } v c (fetchWire_row hw).format_ne_host
        | none =>
          have hw' : fetchWire (u.reload v c) p a = none := by rw [reload_fetchWire, hw]
          rw [answerMove_fits hn hrun hfit hw,
            answerMove_fits (s := u.reload v c) hn hrun hfit hw']
          exact congrArg Host.Outcome.next (reload_onAnswer { u with req := none } v c p a)

theorem reload_timeMove (n : Nat) :
    timeMove (s.reload v c) n = (timeMove s n).reload v c := by
  unfold timeMove
  rw [apply_ite (Move.reload v c)]
  rfl

theorem reload_otherAgentMove :
    otherAgentMove (s.reload v c) = (otherAgentMove s).reload v c := by
  unfold otherAgentMove
  rw [apply_ite (Move.reload v c)]
  rfl

theorem timeMove_not_execute {n : Nat} {i : Instr} {u : State} :
    timeMove s n ≠ .execute i u := by
  rcases timeMove_cases s n with ⟨_, _, e⟩ | ⟨_, e⟩ <;> rw [e] <;> simp

theorem otherAgentMove_not_execute {i : Instr} {u : State} :
    otherAgentMove s ≠ .execute i u := by
  rcases otherAgentMove_cases s with ⟨_, e⟩ | ⟨_, e⟩ <;> rw [e] <;> simp

/-- A step with other operand registers and another CSST is the same step but for these: it carries the
operand registers along, and CSST too, unless an answer sets it. Host accesses and resets apart. -/
theorem step_reload (hh : ∀ a rest, s.inbox ≠ .host a :: rest)
    (hr : ∀ rest, s.inbox ≠ .reset :: rest) :
    step (s.reload v c) = onNext (·.reload v (s.nextCsst c)) (step s) := by
  have own : ∀ {m}, ownMove s = some m → ∃ m', ownMove (s.reload v c) = some m' ∧
      m'.outcome = onNext (·.reload v (s.nextCsst c)) m.outcome := by
    intro m h
    rw [nextCsst_ownMove s c h]
    exact reload_ownMove_outcome s v c h
  have own_none : ownMove s = none → ownMove (s.reload v c) = none := fun h => by
    rw [reload_ownMove, h]; rfl
  cases hi : s.inbox with
  | nil =>
    have hc : s.nextCsst c = c := nextCsst_no_answer s c (by simp [hi])
    cases ho : ownMove s with
    | some m =>
      obtain ⟨m', ho', hm⟩ := own ho
      rw [step_nil_own hi ho, step_nil_own (s := s.reload v c) hi ho', hm]
    | none =>
      rw [hc]
      cases hy : s.cycle with
      | cons e es =>
        rw [step_again hi ho hy, step_again (s := s.reload v c) hi (own_none ho) hy]
        rfl
      | nil =>
        by_cases hs : s.seq = .idle
        · rw [step_nil_idle hi hy hs, step_nil_idle (s := s.reload v c) hi hy hs]
          rfl
        · rw [step_nil_stuck hi ho hy hs,
            step_nil_stuck (s := s.reload v c) hi (own_none ho) hy hs]
          rfl
  | cons e rest =>
    cases e with
    | host a => exact absurd hi (hh a rest)
    | reset => exact absurd hi (hr rest)
    | answer a =>
      cases ho : ownMove s with
      | some m =>
        obtain ⟨m', ho', hm⟩ := own ho
        rw [step_answer_own hi ho, step_answer_own (s := s.reload v c) hi ho', hm]
      | none =>
        rw [step_answer_move hi ho, step_answer_move (s := s.reload v c) hi (own_none ho)]
        exact reload_answerMove s v c hi rfl
    | time n =>
      rw [nextCsst_no_answer s c (by simp [hi]), step_time hi, step_time (s := s.reload v c) hi]
      exact congrArg Move.outcome (reload_timeMove { s with inbox := rest } v c n) |>.trans
        (reload_outcome v c fun i u h => absurd h (timeMove_not_execute _))
    | otherAgent =>
      rw [nextCsst_no_answer s c (by simp [hi]), step_otherAgent hi,
        step_otherAgent (s := s.reload v c) hi]
      exact congrArg Move.outcome (reload_otherAgentMove { s with inbox := rest } v c) |>.trans
        (reload_outcome v c fun i u h => absurd h (otherAgentMove_not_execute _))
    | staleAnswer a =>
      rw [nextCsst_no_answer s c (by simp [hi]), step_stale hi, step_stale (s := s.reload v c) hi]
      rfl

end

end Sys2Proof.Machine
end

section
/-! PROOFS. What a move of the sequencer may write, said once: each is some writes to the registers its point
owns (`Prepares`), then one closing move (`Closes`): a request, a frame built, or the end of the operation. -/

namespace Sys2Proof.Machine

/-- How a move of the sequencer closes: with one request and a point that waits for its answer, with FRAME
built for the command about to be sent, with a move to a point and no request, or with the end of the
operation. -/
inductive Closes (u t : State) : Prop where
  | requests (r : Request) (p : Point) (own : Bool)
      (ht : t = ({ u with csOwned := own }.issue r).goto p)
  | builds (w : Cmd) (ht : t = u.enterCmd w)
  | goes (p : Point) (ht : t = u.goto p)
  | ends (d : Detail) (ht : t = u.endOp d)

/-- What a move of the sequencer at the point of `s` may have written before it closes, and what it may
not. -/
structure Prepares (s u : State) : Prop where
  keeps : u = { s with
    csst := u.csst, initst := u.initst, acmd41cnt := u.acmd41cnt, wresp := u.wresp, resp := u.resp,
    data := u.data, wcopy := u.wcopy, t0 := u.t0, t0Init := u.t0Init, req := u.req,
    inbox := u.inbox, draws := u.draws }
  initst : u.initst = s.initst ∨ ∃ p, s.seq = .run p ∧ p.op = .init := by exact .inl rfl
  acmd41cnt : u.acmd41cnt = s.acmd41cnt ∨
    (s.seq = .run (.start .init) ∧ u.acmd41cnt = 0#32) ∨
    (s.seq = .run (.issueCmd .acmd41) ∧ u.acmd41cnt = saturatingSucc s.acmd41cnt) := by
      exact .inl rfl
  wresp : u.wresp = s.wresp ∨ ∃ p, s.seq = .run p ∧ p.op = .writeBlock := by exact .inl rfl
  resp : u.resp = s.resp ∨
    (∃ w, s.seq = .run (.issueCmd w) ∧ u.resp = Vector.replicate 8 0xFF#8) ∨
    (∃ w, s.seq = .run (.poll (.r1 w)) ∧
      ∃ b : Byte, b.getLsbD 7 = false ∧ u.resp = s.resp.set 0 b) ∨
    (∃ w c, s.seq = .run (.xfer (.rest w) c) ∧ u.resp[0] = s.resp[0]) := by exact .inl rfl
  data : u.data = s.data ∨ ∃ c, s.seq = .run (.xfer .block c) := by exact .inl rfl
  wcopy : u.wcopy = s.wcopy ∨ (s.seq = .run (.start .writeBlock) ∧ u.wcopy = s.data) := by
    exact .inl rfl

/-! ## Closing moves -/

section
variable {u t : State}

/-- A closing move writes nothing but FRAME, STATUS, `cs_owned`, SEQ and the port. -/
theorem Closes.keeps (h : Closes u t) :
    t = { u with
      busy := t.busy, done := t.done, err := t.err, detail := t.detail, frame := t.frame,
      seq := t.seq, csOwned := t.csOwned, req := t.req, wire := t.wire } := by
  cases h with
  | requests r p own ht | builds w ht | goes p ht | ends d ht => subst ht; rfl

/-- FRAME is written only where the frame about to be sent is built (R170). -/
theorem Closes.frame (h : Closes u t) :
    t.frame = u.frame ∨
      ∃ w, t.seq = .run (.issueCmd w) ∧ t.frame = buildFrame (w.idx u) (w.arg u) := by
  cases h with
  | requests r p own ht | goes p ht | ends d ht => subst ht; exact .inl rfl
  | builds w ht => subst ht; exact .inr ⟨w, rfl, rfl⟩

/-- ERR, DETAIL and DONE are written only at the end of the operation (R42, R134). -/
theorem Closes.status (h : Closes u t) :
    (t.busy = false ∧ t.done = true) ∨
      (t.err = u.err ∧ t.detail = u.detail ∧ t.done = u.done) := by
  cases h with
  | requests r p own ht | builds w ht | goes p ht => subst ht; exact .inr ⟨rfl, rfl, rfl⟩
  | ends d ht => subst ht; exact .inl ⟨rfl, rfl⟩

/-- At most one request is issued, and it becomes the outstanding one (R40, R75). -/
theorem Closes.wire (h : Closes u t) :
    t.wire = u.wire ∨ ∃ r, t.wire = r :: u.wire ∧ t.req = some r := by
  cases h with
  | requests r p own ht => subst ht; exact .inr ⟨r, rfl, rfl⟩
  | builds w ht | goes p ht | ends d ht => subst ht; exact .inl rfl

end

section
variable (u : State)

theorem beginChunk_closes (x : Xfer) (str : List Byte) (c : Nat) :
    Closes u (u.beginChunk x str c) := .requests _ _ u.csOwned rfl

theorem beginXfer_closes (x : Xfer) : Closes u (u.beginXfer x) := beginChunk_closes u x _ 0

theorem beginPoll_closes (k : PollKind) : Closes u (u.beginPoll k) := .requests _ _ u.csOwned rfl

theorem beginCsOn_closes (b : Exchange) : Closes u (u.beginCsOn b) := .requests _ _ true rfl

theorem beginCsOff_closes (b : Exchange) : Closes u (u.beginCsOff b) := .requests _ _ false rfl

theorem raise_closes (d : Detail) : Closes u (u.raise d) := by
  unfold State.raise
  split
  · exact .ends d rfl
  · split
    · exact .requests _ _ false rfl
    · exact .ends d rfl

theorem pollMiss_closes (k : PollKind) : Closes u (u.pollMiss k) := by
  rcases pollMiss_cases u k with ⟨_, e⟩ | ⟨_, e⟩ <;> rw [e]
  · exact raise_closes u _
  · exact beginPoll_closes u k

theorem storeR1_closes (w : Cmd) (r : Byte) : Closes (u.putResp 0 [r]) (u.storeR1 w r) := by
  unfold State.storeR1
  dsimp only
  split
  · exact beginXfer_closes _ _
  · exact beginCsOff_closes _ _

/-- What an answer makes the sequencer do after its own bytes have landed: INITST moves on, if the operation
is INIT, T0 or T0_INIT is sampled, and the move closes. -/
def Continues (op : Op) (u t : State) : Prop :=
  ∃ i n m, (i = u.initst ∨ op = .init) ∧ Closes { u with initst := i, t0 := n, t0Init := m } t

theorem Closes.continues {u t : State} (h : Closes u t) (op : Op) : Continues op u t :=
  ⟨u.initst, u.t0, u.t0Init, .inl rfl, h⟩

theorem afterCsOn_continues (b : Exchange) : Continues b.op u (u.afterCsOn b) := by
  cases b with
  | cmd w => exact (beginXfer_closes u _).continues _
  | read => exact ⟨u.initst, u.now, u.t0Init, .inl rfl, beginPoll_closes { u with t0 := u.now } _⟩
  | write => exact (Closes.goes _ rfl).continues _

theorem afterXfer_continues (x : Xfer) : Continues x.op u (u.afterXfer x) := by
  cases x with
  | powerUp => exact ⟨.reset, u.t0, u.t0Init, .inr rfl, .builds .cmd0 rfl⟩
  | frame w => exact (beginPoll_closes u _).continues _
  | block | readCrc | token | copy => exact (beginXfer_closes u _).continues _
  | rest _ | readPad | writePad => exact (beginCsOff_closes u _).continues _
  | dummyCrc =>
    exact ⟨u.initst, u.now, u.t0Init, .inl rfl, beginPoll_closes { u with t0 := u.now } _⟩

theorem afterCmd_continues (w : Cmd) : Continues w.op u (u.afterCmd w) := by
  have fails : ∀ d, Continues w.op u (u.raise d) := fun d => (raise_closes u d).continues _
  cases w with
  | user => exact (Closes.ends .none rfl).continues _
  | cmd0 =>
    exact iteInduction (fun _ => ⟨.ifcheck, u.t0, u.t0Init, .inr rfl, .builds .cmd8 rfl⟩)
      fun _ => fails _
  | cmd8 =>
    exact iteInduction (fun _ => fails _) fun _ => iteInduction (fun _ => fails _)
      fun _ => ⟨.voltneg, u.t0, u.now, .inr rfl, .builds .cmd55 rfl⟩
  | cmd55 =>
    exact iteInduction (fun _ => (Closes.builds .acmd41 rfl).continues _) fun _ => fails _
  | acmd41 =>
    exact iteInduction (fun _ => ⟨.ready, u.t0, u.t0Init, .inr rfl, .ends .none rfl⟩)
      fun _ => iteInduction (fun _ => fails _) fun _ => (Closes.builds .cmd55 rfl).continues _
  | cmd17 =>
    exact iteInduction (fun _ => (beginCsOn_closes u .read).continues _) fun _ => fails _
  | cmd24 =>
    exact iteInduction (fun _ => (beginCsOn_closes u .write).continues _) fun _ => fails _

theorem afterCsOff_continues (b : Exchange) : Continues b.op u (u.afterCsOff b) := by
  cases b with
  | cmd w => exact afterCmd_continues u w
  | read | write => exact (Closes.ends .none rfl).continues _

end

/-! ## RESP -/

theorem putAt_zero_one (v : Vector Byte 8) (b : Byte) : putAt v 0 [b] = v.set 0 b := by
  ext k hk
  rw [putAt_getElem, Vector.getElem_set]
  cases k <;> simp

theorem putAt_first_kept (v : Vector Byte 8) (i : Nat) (bs : List Byte) (h : 0 < i) :
    (putAt v i bs)[0] = v[0] := by
  rw [putAt_getElem, if_neg (by omega)]
  rfl

theorem r1Byte_bit7 (e : BitVec 6) (j : BitVec 1) : (r1Byte e j).getLsbD 7 = false := by
  simp only [r1Byte, BitVec.getLsbD_append]
  simp

/-- A byte with bit 7 clear is put together from its fields (R105). -/
theorem r1Byte_fields {b : Byte} (h : b.extractLsb' 7 1 = 0#1) :
    r1Byte (b.extractLsb' 1 6) (b.extractLsb' 0 1) = b := by
  unfold r1Byte
  rw [← h]
  apply BitVec.eq_of_getLsbD_eq
  intro i hi
  simp only [BitVec.getLsbD_append, BitVec.getLsbD_extractLsb']
  interval_cases i <;> simp

/-- The first byte of a five-byte response is the one already in RESP[0] (R106). -/
theorem decode_r1Payload_first {v : Vector Byte 8} {n : Nat} {bs : List Byte} {e : BitVec 6}
    {j : BitVec 1} {q : Word}
    (h : (decode .r1Payload (v.toList.take (1 + n) ++ bs)).toOption = some (.r1Payload e j q)) :
    r1Byte e j = v[0] := by
  obtain ⟨l, hl⟩ : ∃ l, v.toList.take (1 + n) ++ bs = v[0] :: l := by
    have hv : ∃ l, v.toList = v[0] :: l := by
      obtain ⟨⟨l⟩, hl⟩ := v
      match l, hl with
      | b :: l, _ => exact ⟨l, rfl⟩
    obtain ⟨l, hv⟩ := hv
    refine ⟨l.take n ++ bs, ?_⟩
    rw [hv, Nat.add_comm 1 n]
    rfl
  rw [hl] at h
  match l, h with
  | [p1, p2, p3, p4], h =>
    simp only [decode, decodeR1Payload] at h
    split at h
    · cases h
    · rename_i h7
      cases h
      exact r1Byte_fields (not_not.1 h7)
  | [], h | [_], h | [_, _], h | [_, _, _], h | _ :: _ :: _ :: _ :: _ :: _, h => cases h

/-! ## The moves of the sequencer -/

/-- What a move of the sequencer does: it writes what its point may write, and closes. -/
def Runs (s t : State) : Prop := ∃ u, Prepares s u ∧ Closes u t

section
variable {s t u : State} {p : Point}

theorem Prepares.refl (s : State) : Prepares s s where
  keeps := rfl

theorem Continues.runs (hs : s.seq = .run p) (hu : Prepares s u) (hi : u.initst = s.initst)
    (h : Continues p.op u t) : Runs s t := by
  obtain ⟨i, n, m, hop, hc⟩ := h
  refine ⟨_, ?_, hc⟩
  exact { hu with
    keeps := by rw [hu.keeps]
    initst := hop.imp (·.trans hi) fun e => ⟨p, hs, e⟩ }

theorem startOp_runs {op : Op} (hs : s.seq = .run (.start op)) : Runs s (s.startOp op) := by
  cases op with
  | sendCmd => exact ⟨s, .refl s, .builds .user rfl⟩
  | init =>
    exact ⟨{ s with acmd41cnt := 0#32, initst := .powerup },
      { keeps := rfl, initst := .inr ⟨_, hs, rfl⟩, acmd41cnt := .inr (.inl ⟨hs, rfl⟩) },
      beginXfer_closes _ _⟩
  | readBlock => exact ⟨s, .refl s, .builds .cmd17 rfl⟩
  | writeBlock =>
    exact ⟨{ s with wcopy := s.data, wresp := 0x00#8 },
      { keeps := rfl, wresp := .inr ⟨_, hs, rfl⟩, wcopy := .inr ⟨hs, rfl⟩ }, .builds .cmd24 rfl⟩

/-- Sending FRAME as it stands (R171). -/
theorem frameRow_runs {w : Cmd} {i : Instr} (hs : s.seq = .run (.issueCmd w))
    (hd : decode .cmdFrame s.frame.toList = .ok i) (he : exec i s = .next t) : Runs s t := by
  obtain ⟨f, hx⟩ := exec_frameRow (decode_cmdFrame_format hd)
  let v : State := { s with acmd41cnt := frameCount i s.seq s.acmd41cnt }
  have ht : t = v.openCommand w f := by
    rw [hx, sendFrame_at (s := v) hs] at he
    cases he
    rfl
  have hf : f = s.frame := by
    obtain ⟨u, _, hsend⟩ := exec_frame hd he
    obtain ⟨w', _, e⟩ := sendFrame_frame hsend
    exact congrArg State.frame (ht.symm.trans e)
  subst hf
  refine ⟨{ v with resp := Vector.replicate 8 0xFF#8, t0 := s.now }, ?_, ?_⟩
  · exact {
      keeps := rfl
      acmd41cnt := (frameCount_cases i s.seq s.acmd41cnt).imp_right .inr
      resp := .inr (.inl ⟨w, hs, rfl⟩) }
  · rw [ht]; exact beginCsOn_closes _ _

theorem sendToken_runs (hs : s.seq = .run .issueToken) (he : exec .dataStart s = .next t) :
    Runs s t := by
  have ht : exec .dataStart s = .next (s.beginXfer .token) := by simp [exec, execDataStart, hs]
  cases ht.symm.trans he
  exact ⟨s, .refl s, beginXfer_closes s _⟩

/-- The state an answer finds: the answer taken, and no request outstanding. -/
theorem prepares_answered (s : State) (rest : List Event) :
    Prepares s { s with inbox := rest, req := none } where
  keeps := rfl

/-- An answer that completes a wire row. -/
theorem wireRow_runs {a : Answer} {rest : List Event} {i : Instr} (hs : s.seq = .run p)
    (hw : fetchWire { s with inbox := rest } p a = some i)
    (he : exec i { s with inbox := rest, req := none } = .next t) : Runs s t := by
  let v : State := { s with inbox := rest, req := none }
  have hv : v.seq = .run p := hs
  cases fetchWire_row hw with
  | r1 w e j hp =>
    subst hp
    have ht : exec (.r1 e j) v = .next (v.storeR1 w (r1Byte e j)) := by simp [exec, execR1, hv]
    cases ht.symm.trans he
    exact ⟨v.putResp 0 [r1Byte e j],
      { keeps := rfl
        resp := .inr (.inr (.inl ⟨w, hs, _, r1Byte_bit7 e j, putAt_zero_one _ _⟩)) },
      storeR1_closes v w _⟩
  | dataStart hp =>
    subst hp
    have ht : exec .dataStart v = .next (v.beginXfer .block) := by simp [exec, execDataStart, hv]
    cases ht.symm.trans he
    exact ⟨v, prepares_answered s rest, beginXfer_closes v _⟩
  | writeStatus b hp =>
    subst hp
    have ht : exec (.writeStatus b) v = if b = 0x00#8 then .next (v.pollMiss .wbusy)
        else .next ({ v with wresp := b }.beginXfer .writePad) := by
      simp [exec, execWriteStatus, hv]
    rw [ht] at he
    split at he
    · cases he
      exact ⟨v, prepares_answered s rest, pollMiss_closes v _⟩
    · cases he
      exact ⟨{ v with wresp := b }, { keeps := rfl, wresp := .inr ⟨_, hs, rfl⟩ },
        beginXfer_closes _ _⟩
  | r1Payload w c bs e j q hp ha hd =>
    subst hp
    have ht : exec (.r1Payload e j q) v = .next ((v.putResp 0
        [r1Byte e j, byteOf q 3, byteOf q 2, byteOf q 1, byteOf q 0]).beginCsOff (.cmd w)) := by
      simp [exec, execR1Payload, hv]
    cases ht.symm.trans he
    refine ⟨v.putResp 0 [r1Byte e j, byteOf q 3, byteOf q 2, byteOf q 1, byteOf q 0],
      { keeps := rfl, resp := .inr (.inr (.inr ⟨w, c, hs, ?_⟩)) }, beginCsOff_closes _ _⟩
    exact (putAt_getElem _ _ _ _ _).trans (decode_r1Payload_first hd)

/-- A landed chunk writes RESP after RESP[0], or DATA. -/
theorem land_prepares {x : Xfer} {c : Nat} (hs : s.seq = .run (.xfer x c)) (rest : List Event)
    (bs : List Byte) : Prepares s ({ s with inbox := rest, req := none }.land x c bs) := by
  cases x with
  | rest w =>
    exact { keeps := rfl
            resp := .inr (.inr (.inr ⟨w, c, hs, putAt_first_kept _ _ _ (by omega)⟩)) }
  | block => exact { keeps := rfl, data := .inr ⟨c, hs⟩ }
  | _ => exact prepares_answered s rest

/-- A lost chunk writes draws where a landed one would have written its bytes. -/
theorem lose_prepares {x : Xfer} {c : Nat} (hs : s.seq = .run (.xfer x c)) (rest : List Event) :
    Prepares s ({ s with inbox := rest, req := none }.lose x c) := by
  cases x with
  | rest w =>
    exact { keeps := rfl
            resp := .inr (.inr (.inr ⟨w, c, hs, putAt_first_kept _ _ _ (by omega)⟩)) }
  | block => exact { keeps := rfl, data := .inr ⟨c, hs⟩ }
  | _ => exact prepares_answered s rest

/-- Any other answer, at a point that waits for one. -/
theorem onAnswer_runs (hs : s.seq = .run p) (ho : ownMove s = none) (a : Answer)
    (rest : List Event) : Runs s ({ s with inbox := rest, req := none }.onAnswer p a) := by
  let v : State := { s with inbox := rest, req := none }
  have hcs : ∀ k : CsState, Prepares s { v with csst := k } := fun k => { keeps := rfl }
  cases p with
  | start op => simp [ownMove, hs] at ho
  | issueCmd w => rw [ownMove, hs] at ho; dsimp only at ho; split at ho <;> cases ho
  | issueToken => simp [ownMove, hs] at ho
  | csOn b =>
    cases a with
    | ok _ => exact Continues.runs hs (hcs .asserted) rfl (afterCsOn_continues _ b)
    | fail => exact ⟨_, hcs .unknown, raise_closes _ _⟩
  | csOff b =>
    cases a with
    | ok _ => exact Continues.runs hs (hcs .deasserted) rfl (afterCsOff_continues _ b)
    | fail => exact ⟨_, hcs .unknown, raise_closes _ _⟩
  | failCs op d =>
    cases a with
    | ok _ => exact ⟨_, hcs .deasserted, .ends d rfl⟩
    | fail => exact ⟨_, hcs .unknown, .ends d rfl⟩
  | poll k =>
    cases a with
    | ok _ => exact ⟨v, prepares_answered s rest, pollMiss_closes v k⟩
    | fail => exact ⟨v, prepares_answered s rest, raise_closes v _⟩
  | xfer x c =>
    cases a with
    | ok bs =>
      have hl := land_prepares hs rest bs
      have hi : (v.land x c bs).initst = s.initst := by
        obtain ⟨r, d, e⟩ := land_keeps v x c bs; rw [e]
      simp only [State.onAnswer]
      split
      · exact ⟨_, hl, beginChunk_closes _ _ _ _⟩
      · exact Continues.runs hs hl hi (afterXfer_continues _ x)
    | fail => exact ⟨_, lose_prepares hs rest, raise_closes _ _⟩

end

end Sys2Proof.Machine
end

section
/-! PROOFS. The whole-machine rules about the state: O1, O21, O22, O41 to O47 and O60. -/

namespace Sys2Proof.Machine

/-! ## What one step may change -/

/-- The ways a step reaches a next state, by what it may change: a reset; a host access; an input or a wait
that leaves the block alone, but for the time; a move of the sequencer. -/
inductive Moved (s t : State) : Prop where
  | reset (rest : List Event) (hi : s.inbox = .reset :: rest)
      (ht : t = { s with inbox := rest }.applyReset)
  | host (a : HostAccess) (rest : List Event) (i : Instr) (hi : s.inbox = .host a :: rest)
      (hx : HostEffect s.params a i) (he : exec i { s with inbox := rest } = .next t)
  | time (n : Nat) (rest : List Event) (hi : s.inbox = .time n :: rest)
      (hn : s.busy = true → s.tick ≤ n) (ht : t = { s with inbox := rest }.setTime n)
  | waits (ht : t = { s with inbox := t.inbox })
  | runs (p : Point) (hs : s.seq = .run p) (hr : Runs s t)
      (hin : ownMove s ≠ none ∨ ∃ a rest, s.inbox = .answer a :: rest)
      (hh : ∀ a rest, s.inbox ≠ .host a :: rest)

theorem Stepped.moved {s t : State} (h : Stepped s t) (hh : ∀ a rest, s.inbox ≠ .host a :: rest) :
    Moved s t := by
  have answered : ∀ {a rest}, s.inbox = .answer a :: rest →
      ownMove s ≠ none ∨ ∃ a rest, s.inbox = .answer a :: rest := fun hi => .inr ⟨_, _, hi⟩
  cases h with
  | host a rest i hi hf he => exact absurd hi (hh a rest)
  | reset rest hi ht => exact .reset rest hi ht
  | time n rest hi hn ht => exact .time n rest hi hn ht
  | otherAgent rest hi hb ht => exact .waits (by rw [ht])
  | stale a rest hi ht => exact .waits (by rw [ht])
  | start op hs ht =>
    exact .runs _ hs (ht ▸ startOp_runs hs) (.inl (by simp [ownMove, hs])) hh
  | frame w i hs hd he =>
    exact .runs _ hs (frameRow_runs hs hd he) (.inl (by simp [ownMove, hs, hd])) hh
  | token hs he => exact .runs _ hs (sendToken_runs hs he) (.inl (by simp [ownMove, hs])) hh
  | dropped a rest hi ho hr ht => exact .waits (by rw [ht])
  | wire a rest r p i hi hr hs ho hfit hw he =>
    exact .runs p hs (wireRow_runs hs hw he) (answered hi) hh
  | answer a rest r p hi hr hs ho hfit hw ht =>
    exact .runs p hs (ht ▸ onAnswer_runs hs ho a rest) (answered hi) hh
  | again hi ho hc ht => exact .waits (by rw [ht])
  | waits hi hs ht => exact .waits (by rw [ht])

theorem step_moved {s t : State} (h : step s = .next t) : Moved s t := by
  by_cases hh : ∃ a rest, s.inbox = .host a :: rest
  · obtain ⟨a, rest, hi⟩ := hh
    obtain ⟨i, hf, he⟩ := step_host_next hi h
    exact .host a rest i hi (fetchHost_effect hf) he
  · exact (step_inv h).moved fun a rest hi => hh ⟨a, rest, hi⟩

section
variable {s t : State}

/-- A move of the sequencer never touches the parameters, an operand register, WIGN, a latch, the time input,
the read value or the inputs that come again (R24 to R27, R37, R47, R68). -/
theorem Runs.keeps (h : Runs s t) :
    t.params = s.params ∧ t.lOp = s.lOp ∧ t.lIdx = s.lIdx ∧ t.lArg = s.lArg ∧ t.lLen = s.lLen ∧
      t.now = s.now ∧ t.wraps = s.wraps ∧ t.ctrlOp = s.ctrlOp ∧ t.cmdIdx = s.cmdIdx ∧
      t.arg = s.arg ∧ t.respLen = s.respLen ∧ t.crcAcc = s.crcAcc := by
  obtain ⟨u, hp, hc⟩ := h
  rw [hc.keeps, hp.keeps]
  simp

/-- While an operation runs, a host access changes only WIGN, the value read and the count of draws. -/
theorem step_host_busy {a : HostAccess} {rest : List Event} (hb : s.busy = true)
    (hi : s.inbox = .host a :: rest) (h : step s = .next t) :
    t = { s with inbox := rest, wign := t.wign, rdata := t.rdata, draws := t.draws } ∧
      (s.wign = true → t.wign = true) := by
  obtain ⟨i, hf, he⟩ := step_host_next hi h
  exact (fetchHost_effect hf).next_busy (s := { s with inbox := rest }) hb he

end

/-! ## Reset and the wire rows out of place -/

/-- Settles O1: by the definition of the reset state, R1STAT and PAYLOAD by evaluation. -/
theorem resetGivesTheTableOfR46 : Obligations.ResetGivesTheTableOfR46 := by
  unfold Obligations.ResetGivesTheTableOfR46
  refine ⟨rfl, fun p => ?_⟩
  have hresp : (State.resetWith p).resp = Vector.replicate 8 0xFF#8 := rfl
  have hframe : (State.resetWith p).frame = Vector.replicate 6 0x00#8 := rfl
  have hpayload : (State.resetWith p).payloadWord = 0xFFFFFFFF#32 := by
    rw [State.payloadWord, hresp]; decide
  have hr1stat : (State.resetWith p).r1statWord = 0x0000FEFF#32 := by
    rw [State.r1statWord, hresp]; decide
  exact ⟨rfl, rfl, rfl, rfl, rfl, rfl, rfl, rfl, rfl, rfl, rfl, rfl, rfl, rfl, rfl,
    by simp [hresp], hpayload, hr1stat, by simp [hframe], resetWith_dataByte p, rfl, rfl, rfl, rfl,
    rfl, rfl⟩

theorem exec_frameRow_at {s : State} {i : Instr} {w : Cmd} (hi : i.format = .cmdFrame)
    (hs : s.seq = .run (.issueCmd w)) : ∃ t, exec i s = .next t := by
  obtain ⟨f, hx⟩ := exec_frameRow hi
  exact ⟨_, (hx s).trans (sendFrame_at (by exact hs) f)⟩

/-- The row an answer completes has its meaning at the point that waits for it. -/
theorem WireRow.exec_next {s u : State} {p : Point} {a : Answer} {i : Instr}
    (h : WireRow s p a i) (hs : u.seq = .run p) : ∃ t, exec i u = .next t := by
  cases h with
  | r1 w e j hp | dataStart hp | r1Payload w c bs e j q hp ha hd =>
    subst hp
    simp [exec, execR1, execDataStart, execR1Payload, hs]
  | writeStatus b hp =>
    subst hp
    by_cases hb : b = 0x00#8 <;> simp [exec, execWriteStatus, hs, hb]

/-- No move of the sequencer runs a row out of its place. -/
theorem ownMove_in_place {s : State} {m : Move} (h : ownMove s = some m) :
    m.outcome ≠ .refused .wireOutOfPlace := by
  unfold ownMove at h
  split at h
  · cases h; simp [Move.outcome]
  · rename_i w hs
    split at h
    · rename_i i hd
      cases h
      obtain ⟨t, ht⟩ := exec_frameRow_at (decode_cmdFrame_format hd) hs
      simp [Move.outcome, ht]
    · cases h; simp [Move.outcome]
  · rename_i hs
    cases h
    simp [Move.outcome, exec, execDataStart, hs]
  all_goals cases h

/-- No answer runs a row out of its place. -/
theorem answerMove_in_place (s : State) (a : Answer) :
    (answerMove s a).outcome ≠ .refused .wireOutOfPlace := by
  unfold answerMove
  split
  · rename_i r p hr hs
    split
    · split
      · rename_i i hw
        obtain ⟨t, ht⟩ := (fetchWire_row hw).exec_next (u := { s with req := none }) hs
        simp [Move.outcome, ht]
      · simp [Move.outcome]
    · simp [Move.outcome]
  · simp [Move.outcome]

theorem fetchHost_in_place (p : Params) (a : HostAccess) :
    fetchHost p a ≠ .error .wireOutOfPlace := by
  unfold fetchHost
  split
  · simp
  · split
    · simp
    · split <;> simp

/-- A host access is never refused as a wire row. -/
theorem step_host_in_place {s : State} {a : HostAccess} {rest : List Event}
    (hi : s.inbox = .host a :: rest) : step s ≠ .refused .wireOutOfPlace := by
  intro h
  cases hf : fetchHost s.params a with
  | ok i =>
    rw [step_host_ok hi hf] at h
    cases (fetchHost_effect hf).refused h
  | error r =>
    rw [step_host_error hi hf] at h
    cases h
    exact fetchHost_in_place _ _ hf

theorem step_in_place (s : State) : step s ≠ .refused .wireOutOfPlace := by
  cases hi : s.inbox with
  | nil =>
    cases ho : ownMove s with
    | some m => rw [step_nil_own hi ho]; exact ownMove_in_place ho
    | none =>
      cases hy : s.cycle with
      | cons e es => simp [step_again hi ho hy]
      | nil =>
        by_cases hs : s.seq = .idle
        · simp [step_nil_idle hi hy hs]
        · simp [step_nil_stuck hi ho hy hs]
  | cons e rest =>
    cases e with
    | host a => exact step_host_in_place hi
    | reset => simp [step_reset hi]
    | answer a =>
      cases ho : ownMove s with
      | some m => rw [step_answer_own hi ho]; exact ownMove_in_place ho
      | none => rw [step_answer_move hi ho]; exact answerMove_in_place _ a
    | time n =>
      rw [step_time hi]
      rcases timeMove_cases { s with inbox := rest } n with ⟨_, _, e⟩ | ⟨_, e⟩ <;>
        simp [e, Move.outcome]
    | otherAgent =>
      rw [step_otherAgent hi]
      rcases otherAgentMove_cases { s with inbox := rest } with ⟨_, e⟩ | ⟨_, e⟩ <;>
        simp [e, Move.outcome]
    | staleAnswer a => simp [step_stale hi]

/-- Settles O21: by the input a step takes; each row has one match on the sequencer's point. -/
theorem wireRowsOutOfPlaceAreRefused : Obligations.WireRowsOutOfPlaceAreRefused := by
  unfold Obligations.WireRowsOutOfPlaceAreRefused
  intro s
  refine ⟨step_in_place s, ?_, ?_, ?_, ?_, ?_⟩
  · intro hs i hi
    obtain ⟨f, hx⟩ := exec_frameRow hi
    exact (hx s).trans (sendFrame_elsewhere (by exact hs) f)
  · intro hs e i
    simp only [exec, execR1]
    split
    · rename_i w h; exact absurd h (hs w)
    all_goals rfl
  · intro hs e i p
    simp only [exec, execR1Payload]
    split
    · rename_i w c h; exact absurd h (hs w c)
    all_goals rfl
  · intro hpoll htoken
    simp only [exec, execDataStart]
    split
    · rename_i h; exact absurd h hpoll
    · rename_i h; exact absurd h htoken
    all_goals rfl
  · intro hs b
    simp only [exec, execWriteStatus]
    split
    · rename_i h; exact absurd h hs
    all_goals rfl

/-! ## The operand registers and the latches -/

/-- Settles O45: a host access that answers a next state was fetched, and ran with BUSY = 1. -/
theorem hostCannotDisturbAnOperation : Obligations.HostCannotDisturbAnOperation := by
  unfold Obligations.HostCannotDisturbAnOperation
  intro s t a rest hb hi h
  exact step_host_busy hb hi h

/-- Settles O41: a move of the sequencer and an input leave them alone, and a host access with BUSY = 1 is
dropped. -/
theorem operationsNeverWriteOperandRegisters : Obligations.OperationsNeverWriteOperandRegisters := by
  unfold Obligations.OperationsNeverWriteOperandRegisters
  intro s t h
  cases step_moved h with
  | reset rest hi ht => exact .inl ⟨rest, hi⟩
  | host a rest i hi hx he =>
    cases hb : s.busy with
    | false => exact .inr (.inl ⟨rfl, a, rest, hi⟩)
    | true =>
      rw [(step_host_busy hb hi h).1]
      exact .inr (.inr ⟨rfl, rfl, rfl, rfl, rfl⟩)
  | time n rest hi hn ht => rw [ht]; exact .inr (.inr ⟨rfl, rfl, rfl, rfl, rfl⟩)
  | waits ht => rw [ht]; exact .inr (.inr ⟨rfl, rfl, rfl, rfl, rfl⟩)
  | runs p hs hr hin hh =>
    obtain ⟨-, -, -, -, -, -, -, hop, hidx, harg, hlen, hacc⟩ := hr.keeps
    exact .inr (.inr ⟨hop, hidx, harg, hlen, hacc⟩)

/-- While an operation runs, only a reset changes a latch (R37). -/
theorem step_keeps_latches {s t : State} (hb : s.busy = true)
    (hreset : ∀ rest, s.inbox ≠ .reset :: rest) (h : step s = .next t) :
    t.lOp = s.lOp ∧ t.lIdx = s.lIdx ∧ t.lArg = s.lArg ∧ t.lLen = s.lLen := by
  cases step_moved h with
  | reset rest hi ht => exact absurd hi (hreset rest)
  | host a rest i hi hx he => rw [(step_host_busy hb hi h).1]; exact ⟨rfl, rfl, rfl, rfl⟩
  | time n rest hi hn ht => rw [ht]; exact ⟨rfl, rfl, rfl, rfl⟩
  | waits ht => rw [ht]; exact ⟨rfl, rfl, rfl, rfl⟩
  | runs p hs hr hin hh =>
    obtain ⟨-, hop, hidx, harg, hlen, -⟩ := hr.keeps
    exact ⟨hop, hidx, harg, hlen⟩

/-- With the values they have, `step_reload` says what a step does to the operand registers and to CSST. -/
theorem step_carries {s t : State} (hh : ∀ a rest, s.inbox ≠ .host a :: rest)
    (hr : ∀ rest, s.inbox ≠ .reset :: rest) (h : step s = .next t) :
    t = t.reload s.operands (s.nextCsst s.csst) := by
  have hself := step_reload s s.operands s.csst hh hr
  rw [reload_self, h] at hself
  exact Host.Outcome.next.inj hself

/-- Settles O46: the latches by what a step may change, the operands by `step_reload`. -/
theorem operationsReadOnlyLatchedOperands : Obligations.OperationsReadOnlyLatchedOperands := by
  unfold Obligations.OperationsReadOnlyLatchedOperands
  refine ⟨fun s t hb hr h => step_keeps_latches hb hr h, ?_⟩
  intro s op idx arg len acc hs hh hr
  have hstep := step_reload s ⟨op, idx, arg, len, acc⟩ s.csst hh hr
  dsimp only
  refine hstep.trans ?_
  cases h : step s with
  | next t =>
    have hc : t.csst = s.nextCsst s.csst := congrArg State.csst (step_carries hh hr h)
    simp only [onNext, ← hc]
    rfl
  | fault f => rfl
  | refused r => rfl

/-! ## STATUS.CSST -/

theorem ctrlGo_csst (op : BitVec 3) (s : State) (c : CsState) :
    ctrlGo op { s with csst := c } = onNext (fun t => { t with csst := c }) (ctrlGo op s) := by
  unfold ctrlGo
  dsimp only
  split
  · rfl
  · split
    · rfl
    · split <;> rfl

/-- A host access that is no read does the same with another CSST. -/
theorem HostEffect.csst {p : Params} {a : HostAccess} {i : Instr} (h : HostEffect p a i)
    (hw : a.write = true) (s : State) (c : CsState) :
    exec i { s with csst := c } = onNext (fun t => { t with csst := c }) (exec i s) := by
  cases h with
  | read off hr hi => rw [hr] at hw; cases hw
  | ctrl op _ ha hx =>
    rw [hx, hx]
    exact ctrlGo_csst op s c
  | operand f hx hf hc =>
    rw [hx, hx, hc]
    unfold hostWrite
    dsimp only
    split <;> rfl
  | ignored hx => rw [hx, hx]; rfl

/-- Every step but a host read does the same with another CSST, and leaves some CSST. -/
theorem step_csst (s : State) (c : CsState)
    (hwrite : ∀ a rest, s.inbox = .host a :: rest → a.write = true) :
    ∃ c', step { s with csst := c } = onNext (fun t => { t with csst := c' }) (step s) := by
  by_cases hh : ∃ a rest, s.inbox = .host a :: rest
  · obtain ⟨a, rest, hi⟩ := hh
    have hi' : ({ s with csst := c } : State).inbox = .host a :: rest := hi
    cases hf : fetchHost s.params a with
    | error r => exact ⟨c, by rw [step_host_error hi hf, step_host_error hi' hf]; rfl⟩
    | ok i =>
      rw [step_host_ok hi hf, step_host_ok hi' hf]
      exact ⟨c, (fetchHost_effect hf).csst (hwrite a rest hi) { s with inbox := rest } c⟩
  by_cases hr : ∃ rest, s.inbox = .reset :: rest
  · obtain ⟨rest, hi⟩ := hr
    have hi' : ({ s with csst := c } : State).inbox = .reset :: rest := hi
    exact ⟨.deasserted, by rw [step_reset hi, step_reset hi']; rfl⟩
  have hh : ∀ a rest, s.inbox ≠ .host a :: rest := fun a rest hi => hh ⟨a, rest, hi⟩
  have hr : ∀ rest, s.inbox ≠ .reset :: rest := fun rest hi => hr ⟨rest, hi⟩
  refine ⟨s.nextCsst c, (step_reload s s.operands c hh hr).trans ?_⟩
  cases h : step s with
  | next t =>
    have ht : ∀ k, t.reload s.operands k = { t with csst := k } := fun k => by
      rw [step_carries hh hr h]; rfl
    exact congrArg Host.Outcome.next (ht _)
  | fault f => rfl
  | refused r => rfl

/-- Settles O22: an answer sets CSST by `step_carries`, and no step but a host read depends on it by
`step_csst`. -/
theorem csstFollowsTheAnswers : Obligations.CsstFollowsTheAnswers := by
  unfold Obligations.CsstFollowsTheAnswers
  constructor
  · intro s t r a rest hinv hreq hi hfit h
    have hc : t.csst = s.nextCsst s.csst :=
      congrArg State.csst (step_carries (by simp [hi]) (by simp [hi]) h)
    have hwait : s.seq.waitsFor s = some r := hinv.request.symm.trans hreq
    cases hs : s.seq with
    | idle => rw [hs] at hwait; cases hwait
    | run p =>
      rw [hs] at hwait
      rw [hc, nextCsst_answer s s.csst hi hreq hs hfit]
      cases p with
      | start _ | issueCmd _ | issueToken => cases hwait
      | csOn _ | csOff _ | failCs _ _ | xfer _ _ | poll _ => cases hwait; cases a <;> rfl
  · intro s c hwrite
    obtain ⟨c', hc⟩ := step_csst s c hwrite
    cases h : step s with
    | next t => exact ⟨c', by rw [hc, h]; rfl⟩
    | fault f => rw [h] at hc; exact hc
    | refused r => rw [h] at hc; exact hc

/-! ## The buffers and the result registers -/

/-- Settles O42: DATA and WCOPY by what the sequencer's point may write, and by what a host access may. -/
theorem onlyReadBlockAndTheHostWriteData : Obligations.OnlyReadBlockAndTheHostWriteData := by
  unfold Obligations.OnlyReadBlockAndTheHostWriteData
  intro s t h
  cases step_moved h with
  | reset rest hi ht => exact .inl ⟨rest, hi⟩
  | host a rest i hi hx he =>
    refine .inr ⟨?_, .inl (by rw [hx.next_keeps he])⟩
    cases hb : s.busy with
    | false => exact .inr (.inl ⟨rfl, a, rest, hi⟩)
    | true => rw [(step_host_busy hb hi h).1]; exact .inl rfl
  | time n rest hi hn ht => rw [ht]; exact .inr ⟨.inl rfl, .inl rfl⟩
  | waits ht => rw [ht]; exact .inr ⟨.inl rfl, .inl rfl⟩
  | runs p hs hr hin hh =>
    obtain ⟨u, hp, hc⟩ := hr
    rw [hc.keeps]
    exact .inr ⟨hp.data.imp_right .inr, hp.wcopy⟩

/-- A host access changes no result register (R29, R30, R33, R34, R43). -/
theorem HostEffect.next_results {p : Params} {a : HostAccess} {i : Instr} {s t : State}
    (h : HostEffect p a i) (he : exec i s = .next t) :
    t.initst = s.initst ∧ t.acmd41cnt = s.acmd41cnt ∧ t.wresp = s.wresp ∧ t.resp = s.resp ∧
      t.frame = s.frame := by
  rw [h.next_keeps he]
  simp

/-- FRAME after a move of the sequencer: as it was, or built from the latched operands (R170). -/
theorem Runs.frame {s t : State} (h : Runs s t) :
    t.frame = s.frame ∨
      ∃ w, t.seq = .run (.issueCmd w) ∧ t.frame = buildFrame (w.idx s) (w.arg s) := by
  obtain ⟨u, hp, hc⟩ := h
  have hf : u.frame = s.frame := by rw [hp.keeps]
  refine hc.frame.imp (·.trans hf) fun ⟨w, hw, e⟩ => ⟨w, hw, e.trans ?_⟩
  rw [idx_congr (s := s) w (by rw [hp.keeps]), arg_congr (s := s) w (by rw [hp.keeps])]

/-- Settles O43: by what the sequencer's point may write before it closes, and where FRAME is built. -/
theorem resultRegistersHaveOneWriter : Obligations.ResultRegistersHaveOneWriter := by
  unfold Obligations.ResultRegistersHaveOneWriter
  intro s t h
  cases step_moved h with
  | reset rest hi ht => exact .inl ⟨rest, hi⟩
  | host a rest i hi hx he =>
    obtain ⟨hinitst, hcnt, hwresp, hresp, hframe⟩ := hx.next_results he
    exact .inr ⟨.inl hinitst, .inl hcnt, .inl hwresp, .inl hresp, .inl hframe,
      fun _ => ⟨hinitst, hcnt, hwresp, hresp, hframe⟩⟩
  | time n rest hi hn ht =>
    rw [ht]
    exact .inr ⟨.inl rfl, .inl rfl, .inl rfl, .inl rfl, .inl rfl, fun _ => ⟨rfl, rfl, rfl, rfl, rfl⟩⟩
  | waits ht =>
    rw [ht]
    exact .inr ⟨.inl rfl, .inl rfl, .inl rfl, .inl rfl, .inl rfl, fun _ => ⟨rfl, rfl, rfl, rfl, rfl⟩⟩
  | runs p hs hr hin hh =>
    have hframe := hr.frame
    obtain ⟨u, hp, hc⟩ := hr
    have hu : t.initst = u.initst ∧ t.acmd41cnt = u.acmd41cnt ∧ t.wresp = u.wresp ∧
        t.resp = u.resp := by rw [hc.keeps]; simp
    obtain ⟨hinitst, hcnt, hwresp, hresp⟩ := hu
    rw [hinitst, hcnt, hwresp, hresp]
    exact .inr ⟨hp.initst, hp.acmd41cnt, hp.wresp, hp.resp,
      hframe.imp_right fun hw => ⟨by simp [hs], hw⟩, fun ⟨a, rest, hi⟩ => absurd hi (hh a rest)⟩

/-! ## ERR, DETAIL and DONE; the transport -/

/-- Settles O44: a closing move writes them only at the end of the operation, and a host access only as a
CTRL write with BUSY = 0. -/
theorem errorsAreWrittenAtStartAndEnd : Obligations.ErrorsAreWrittenAtStartAndEnd := by
  unfold Obligations.ErrorsAreWrittenAtStartAndEnd
  intro s t hinv h
  cases step_moved h with
  | reset rest hi ht => exact .inl ⟨rest, hi⟩
  | host a rest i hi hx he =>
    cases hb : s.busy with
    | true => rw [(step_host_busy hb hi h).1]; exact .inr (.inr (.inr ⟨rfl, rfl, rfl⟩))
    | false =>
      rcases hx.next_status he with ⟨hw, ha⟩ | hkept
      · exact .inr (.inl ⟨rfl, a, rest, hi, hw, ha⟩)
      · exact .inr (.inr (.inr hkept))
  | time n rest hi hn ht => rw [ht]; exact .inr (.inr (.inr ⟨rfl, rfl, rfl⟩))
  | waits ht => rw [ht]; exact .inr (.inr (.inr ⟨rfl, rfl, rfl⟩))
  | runs p hs hr hin hh =>
    obtain ⟨u, hp, hc⟩ := hr
    have hbusy : s.busy = true := hinv.busy.2 (by simp [hs])
    rcases hc.status with ⟨hb, hd⟩ | hkept
    · exact .inr (.inr (.inl ⟨hbusy, hb, hd⟩))
    · rw [hp.keeps] at hkept
      exact .inr (.inr (.inr hkept))

/-- Where the sequencer has a move of its own, no request is outstanding (R36, R40). -/
theorem State.Inv.req_of_ownMove {s : State} (h : s.Inv) (ho : ownMove s ≠ none) :
    s.req = none := by
  rw [h.request]
  cases hs : s.seq with
  | idle => rfl
  | run p =>
    cases p with
    | start _ | issueCmd _ | issueToken => rfl
    | csOn _ | xfer _ _ | poll _ | csOff _ | failCs _ _ => simp [ownMove, hs] at ho

/-- Settles O47: a closing move issues at most one request. -/
theorem oneRequestAtATime : Obligations.OneRequestAtATime := by
  unfold Obligations.OneRequestAtATime
  intro s t hinv h
  cases step_moved h with
  | reset rest hi ht => exact .inl ⟨rest, hi⟩
  | host a rest i hi hx he => exact .inr (.inl (by rw [hx.next_keeps he]))
  | time n rest hi hn ht => exact .inr (.inl (by rw [ht]; rfl))
  | waits ht => exact .inr (.inl (by rw [ht]))
  | runs p hs hr hin hh =>
    obtain ⟨u, hp, hc⟩ := hr
    have hu : u.wire = s.wire := by rw [hp.keeps]
    rw [← hu]
    refine .inr (hc.wire.imp_right fun ⟨r, hw, hreq⟩ => ⟨by simp [hs], r, hw, hreq, ?_⟩)
    exact hin.imp_left hinv.req_of_ownMove

/-! ## The time input and the platform's promises -/

/-- Nothing but a time event moves `now` (R47). -/
theorem step_keeps_time {s t : State} (h : step s = .next t) :
    (t.now = s.now ∧ t.wraps = s.wraps ∧ t.params = s.params) ∨
      ∃ n rest, s.inbox = .time n :: rest ∧ (s.busy = true → s.tick ≤ n) ∧
        t = { s with inbox := rest }.setTime n := by
  cases step_moved h with
  | reset rest hi ht => rw [ht]; exact .inl ⟨rfl, rfl, rfl⟩
  | host a rest i hi hx he => rw [hx.next_keeps he]; exact .inl ⟨rfl, rfl, rfl⟩
  | time n rest hi hn ht => exact .inr ⟨n, rest, hi, hn, ht⟩
  | waits ht => rw [ht]; exact .inl ⟨rfl, rfl, rfl⟩
  | runs p hs hr hin hh =>
    obtain ⟨hparams, -, -, -, -, hnow, hwraps, -⟩ := hr.keeps
    exact .inl ⟨hnow, hwraps, hparams⟩

/-- The time source at tick `n` reads as `n`. -/
theorem tick_setTime (s : State) (n : Nat) : (s.setTime n).tick = n := by
  simp only [State.tick, State.setTime]
  rw [Nat.mul_comm]
  exact Nat.div_add_mod n _

/-- Settles O60: by the step at a time event and at another agent, and by `step_keeps_time`. -/
theorem timeGoesForwardInAnOperation : Obligations.TimeGoesForwardInAnOperation := by
  unfold Obligations.TimeGoesForwardInAnOperation
  refine ⟨?_, ?_, ?_, ?_⟩
  · intro s n rest hi
    constructor
    · intro hok
      have hn : ¬(s.busy = true ∧ n < s.tick) := by
        rintro ⟨hb, hlt⟩
        rcases hok with hf | hle
        · rw [hb] at hf; cases hf
        · exact absurd hlt (Nat.not_lt.2 hle)
      rw [step_time hi, timeMove, if_neg (by exact hn)]
      rfl
    · intro hb hlt
      rw [step_time hi, timeMove, if_pos ⟨by exact hb, by exact hlt⟩]
      rfl
  · intro s t h
    rcases step_keeps_time h with ⟨hnow, hwraps, _⟩ | ⟨n, rest, hi, _⟩
    · exact .inl ⟨hnow, hwraps⟩
    · exact .inr ⟨n, rest, hi⟩
  · intro s t hb h
    show s.tick ≤ t.tick
    rcases step_keeps_time h with ⟨hnow, hwraps, hparams⟩ | ⟨n, rest, hi, hn, ht⟩
    · simp only [State.tick, hnow, hwraps, hparams]
      exact le_rfl
    · rw [ht, tick_setTime]
      exact hn hb
  · intro s rest hi
    rw [step_otherAgent hi]
    constructor <;> intro hb <;> simp [otherAgentMove, hb, Move.outcome]

end Sys2Proof.Machine
end

section
/-! PROOFS. The register window (R61 to R70): every statement about a host access goes through the offset's
alignment and range, what a read and a write at an aligned offset come to, and the bytes of a DATA word. -/

namespace Sys2Proof.Machine

/-! ## Offsets (R61, R63) -/

/-- An offset is aligned exactly when its two low bits are 0. -/
theorem aligned_iff (off : BitVec 10) : off.extractLsb' 0 2 = 0#2 ↔ off.toNat % 4 = 0 := by
  simp [BitVec.toNat_eq]

/-- The two low bits of an offset taken from a bus address (R62). -/
theorem ofNat_aligned_iff (n : Nat) : (BitVec.ofNat 10 n).extractLsb' 0 2 = 0#2 ↔ n % 4 = 0 := by
  rw [aligned_iff, BitVec.toNat_ofNat]
  omega

/-- The DATA half of the window is where bit 9 of the offset is 1. -/
theorem dataOffset_iff (off : BitVec 10) : off.extractLsb' 9 1 = 1#1 ↔ 0x200 ≤ off.toNat := by
  have := off.isLt
  simp only [BitVec.toNat_eq, BitVec.extractLsb'_toNat, BitVec.toNat_ofNat, Nat.shiftRight_eq_div_pow]
  omega

/-- The offset of DATA word `k`. -/
theorem dataOffset_toNat (k : BitVec 7) : (1#1 ++ k ++ 0#2).toNat = 0x200 + 4 * k.toNat := by
  rw [BitVec.toNat_append, BitVec.toNat_append, ← Nat.shiftLeft_add_eq_or_of_lt k.isLt,
    ← Nat.shiftLeft_add_eq_or_of_lt (0#2).isLt, Nat.shiftLeft_eq, Nat.shiftLeft_eq]
  simp only [BitVec.toNat_ofNat]
  omega

/-- The offset of word `n` of a range that starts at `base`. -/
theorem rangeOffset_toNat {base n : Nat} (h : base + 4 * n < 0x400) :
    (BitVec.ofNat 10 base + 4#10 * BitVec.ofNat 10 n).toNat = base + 4 * n := by
  simp only [BitVec.toNat_add, BitVec.toNat_mul, BitVec.toNat_ofNat]
  omega

/-! ## What a host read returns (R66, R69) -/

section
variable {s : State} {off : BitVec 10}

/-- A host read that answers a next state was aligned (R63). -/
theorem execHostRead_aligned {t : State} (h : execHostRead off s = .next t) :
    off.toNat % 4 = 0 := by
  unfold execHostRead at h
  split at h
  · cases h
  · rename_i ha
    exact (aligned_iff off).1 (not_not.1 ha)

/-- A read with BUSY = 0 returns the register and changes nothing else. -/
theorem exec_hostRead_idle (hb : s.busy = false) (ha : off.toNat % 4 = 0) :
    exec (.hostRead off) s = .next { s with rdata := s.readReg off.toNat } := by
  simp [exec, execHostRead, (aligned_iff off).2 ha, hb]

/-- A read of a reserved offset returns 0, busy or not (R64). -/
theorem exec_hostRead_reserved (hr : reservedOffset off.toNat = true) (ha : off.toNat % 4 = 0) :
    exec (.hostRead off) s = .next { s with rdata := 0#32 } := by
  simp [exec, execHostRead, (aligned_iff off).2 ha, hr, readReg_reserved s hr]

/-- With BUSY = 1 a read of STATUS takes a draw for CSST and INITST. -/
theorem exec_hostRead_status_busy (hb : s.busy = true) :
    exec (.hostRead 0x004#10) s = .next { s with
      rdata := s.busyStatusWord (Config.freeWord s.draws), draws := s.draws + 1 } := by
  simp [exec, execHostRead, hb, reservedOffset, State.draw]

/-- With BUSY = 1 a read of any other register returns a draw. -/
theorem exec_hostRead_busy (hb : s.busy = true) (ha : off.toNat % 4 = 0)
    (hr : reservedOffset off.toNat = false) (hs : off ≠ 0x004#10) :
    exec (.hostRead off) s = .next { s with
      rdata := Config.freeWord s.draws, draws := s.draws + 1 } := by
  simp [exec, execHostRead, (aligned_iff off).2 ha, hb, hr, hs, State.draw]

end

/-! ## The registers by offset (R22 to R35) -/

/-- RESP[i] stands at 0x040 + 4i (R33). -/
theorem readReg_resp (s : State) (i : Fin 8) :
    s.readReg (0x040 + 4 * i.val) = (s.resp[i]).zeroExtend 32 := by
  have := i.isLt
  have hi : (0x040 + 4 * i.val - 0x040) / 4 = i.val := by omega
  simp (disch := omega) only [State.readReg, if_neg, dif_pos, hi]
  rfl

/-- FRAME[i] stands at 0x060 + 4i (R34). -/
theorem readReg_frame (s : State) (i : Fin 6) :
    s.readReg (0x060 + 4 * i.val) = (s.frame[i]).zeroExtend 32 := by
  have := i.isLt
  have hi : (0x060 + 4 * i.val - 0x060) / 4 = i.val := by omega
  simp (disch := omega) only [State.readReg, if_neg, dif_neg, dif_pos, hi]
  rfl

/-- DATA word `k` stands at 0x200 + 4k (R35). -/
theorem readReg_data (s : State) {k : Nat} (h : k < 128) :
    s.readReg (0x200 + 4 * k) = s.dataWord k := by
  have hk : (0x200 + 4 * k - 0x200) / 4 = k := by omega
  simp (disch := omega) only [State.readReg, if_neg, dif_neg, if_pos, hk]

/-- With BUSY = 0, bit 0 of STATUS is 0 (R23). -/
theorem statusWord_idle {s : State} (hb : s.busy = false) :
    s.statusWord = 0#13 ++ s.initst.code ++ s.detail.code ++ s.err.code ++ 0#3 ++ s.csst.code ++
      BitVec.ofBool s.wign ++ BitVec.ofBool s.done ++ 0#1 := by
  rw [State.statusWord, statusBits, hb]
  rfl

/-- R1STAT.VALID is the complement of bit 7 of the byte, as R32 writes it. -/
theorem r1statBits_eq (r : Byte) :
    r1statBits r = 0#16 ++ r.extractLsb' 1 6 ++ r.extractLsb' 0 1 ++ (1#1 - r.extractLsb' 7 1) ++ r := by
  have hsub : ∀ b : BitVec 1, 1#1 - b = ~~~b := by decide
  rw [hsub, r1statBits]

/-- What STATUS shows exactly while BUSY = 1, whatever CSST, INITST and WIGN are (R69). -/
theorem statusBits_busy : ∀ (initst : BitVec 3) (csst : BitVec 2) (wign : Bool),
    let v := statusBits initst 0#4 0#4 csst wign false true
    v.getLsbD 0 = true ∧ v.getLsbD 1 = false ∧ v.getLsbD 2 = wign ∧
      v.extractLsb' 5 3 = 0#3 ∧ v.extractLsb' 8 4 = 0#4 ∧ v.extractLsb' 12 4 = 0#4 ∧
      v.extractLsb' 19 13 = 0#13 := by
  decide

/-! ## What a host write does (R68, R131, R135) -/

section
variable {s : State} {off : BitVec 10}

theorem hostWrite_idle (hb : s.busy = false) (d : State) : hostWrite s d = .next d := by
  simp [hostWrite, hb]

theorem hostWrite_busy (hb : s.busy = true) (d : State) : hostWrite s d = .next s.dropWrite := by
  simp [hostWrite, hb]

theorem ctrlGo_busy (hb : s.busy = true) (op : BitVec 3) : ctrlGo op s = .next s.dropWrite := by
  simp [ctrlGo, hb]

theorem decodeHost_write (ha : off.toNat % 4 = 0) (v : Word) :
    decodeHost true off v = .ok (decodeWrite off v) := by
  simp [decodeHost, (aligned_iff off).2 ha]

/-- The offsets of the writable registers: CTRL, CMD, ARG, RESPLEN, CRC, CRCIN and DATA (R61). -/
def writableOffset (off : Nat) : Prop :=
  off = 0x000 ∨ off = 0x008 ∨ off = 0x00C ∨ off = 0x010 ∨ off = 0x014 ∨ off = 0x018 ∨ 0x200 ≤ off

/-- While BUSY = 1 a write to a writable register is dropped. -/
theorem exec_decodeWrite_busy (hb : s.busy = true) (hw : writableOffset off.toNat) (v : Word) :
    exec (decodeWrite off v) s = .next s.dropWrite := by
  have at_offset : ∀ o : BitVec 10, off.toNat = o.toNat →
      exec (decodeWrite o v) s = .next s.dropWrite →
      exec (decodeWrite off v) s = .next s.dropWrite := fun o h e => BitVec.eq_of_toNat_eq h ▸ e
  rcases hw with h | h | h | h | h | h | h
  · exact at_offset 0x000#10 h ((exec_decodeCtrl _ s).trans (ctrlGo_busy hb _))
  · exact at_offset 0x008#10 h (hostWrite_busy hb _)
  · exact at_offset 0x00C#10 h (hostWrite_busy hb _)
  · exact at_offset 0x010#10 h (hostWrite_busy hb _)
  · exact at_offset 0x014#10 h (hostWrite_busy hb _)
  · exact at_offset 0x018#10 h (hostWrite_busy hb _)
  · rw [decodeWrite, if_pos ((dataOffset_iff off).2 h)]
    exact hostWrite_busy hb _

/-- A write at a read-only or reserved offset has no effect, busy or not. -/
theorem exec_decodeWrite_ignored (hw : ¬writableOffset off.toNat) (v : Word) :
    exec (decodeWrite off v) s = .next s := by
  simp only [writableOffset, not_or] at hw
  obtain ⟨h000, h008, h00C, h010, h014, h018, hdata⟩ := hw
  have ne : ∀ o : BitVec 10, off.toNat ≠ o.toNat → off ≠ o := fun _ h e => h (congrArg _ e)
  rw [decodeWrite, if_neg (mt (dataOffset_iff off).1 hdata)]
  iterate 4 refine iteInduction (motive := (exec · s = .next s)) (fun _ => rfl) fun _ => ?_
  rw [decodeLowWrite, if_neg (ne 0x000#10 h000)]
  refine iteInduction (motive := (exec · s = .next s)) (fun _ => rfl) fun _ => ?_
  rw [if_neg (ne 0x008#10 h008), if_neg (ne 0x00C#10 h00C), if_neg (ne 0x010#10 h010),
    if_neg (ne 0x014#10 h014), if_neg (ne 0x018#10 h018)]
  iterate 5 refine iteInduction (motive := (exec · s = .next s)) (fun _ => rfl) fun _ => ?_
  rfl

end

/-! ## DATA words (R70) -/

/-- The bytes of a word, the low byte first. -/
def wordBytes (v : Word) : List Byte :=
  [v.extractLsb' 0 8, v.extractLsb' 8 8, v.extractLsb' 16 8, v.extractLsb' 24 8]

/-- The four bytes of a word, joined again. -/
theorem append_bytes (v : Word) : v.extractLsb' 24 8 ++ v.extractLsb' 16 8 ++ v.extractLsb' 8 8 ++
    v.extractLsb' 0 8 = v := by
  rw [BitVec.extractLsb'_append_extractLsb'_eq_extractLsb' (start₁ := 16) (start₂ := 24) rfl,
    BitVec.extractLsb'_append_extractLsb'_eq_extractLsb' (start₁ := 8) (start₂ := 16) rfl,
    BitVec.extractLsb'_append_extractLsb'_eq_extractLsb' (start₁ := 0) (start₂ := 8) rfl]
  exact BitVec.extractLsb'_eq_self

/-- The bytes of DATA after a word is stored: bits 7:0 at its first offset, bits 31:24 at its last. -/
theorem putWord_bytes (s : State) (k : Nat) (v : Word) :
    let t := s.putData (4 * k) (wordBytes v)
    t.dataByte (4 * k) = v.extractLsb' 0 8 ∧ t.dataByte (4 * k + 1) = v.extractLsb' 8 8 ∧
      t.dataByte (4 * k + 2) = v.extractLsb' 16 8 ∧ t.dataByte (4 * k + 3) = v.extractLsb' 24 8 := by
  simp [putData_dataByte, wordBytes]

/-- A word stored in DATA is read back. -/
theorem putWord_dataWord (s : State) (k : Nat) (v : Word) :
    (s.putData (4 * k) (wordBytes v)).dataWord k = v := by
  obtain ⟨h0, h1, h2, h3⟩ := putWord_bytes s k v
  rw [State.dataWord, h0, h1, h2, h3, append_bytes]

/-- Storing a word leaves every other word as it was. -/
theorem putWord_dataWord_other (s : State) {k k' : Nat} (h : k' ≠ k) (v : Word) :
    (s.putData (4 * k) (wordBytes v)).dataWord k' = s.dataWord k' := by
  have kept : ∀ j, 4 * k' ≤ j → j < 4 * k' + 4 →
      (s.putData (4 * k) (wordBytes v)).dataByte j = s.dataByte j := fun j hlo hhi => by
    have hlen : (wordBytes v).length = 4 := rfl
    rw [putData_dataByte, hlen, if_neg (by omega)]
  simp (disch := omega) only [State.dataWord, kept]

/-- With BUSY = 0 a read of DATA word `k` returns it. -/
theorem exec_hostRead_data {s : State} (hb : s.busy = false) (k : BitVec 7) :
    exec (.hostRead (1#1 ++ k ++ 0#2)) s = .next { s with rdata := s.dataWord k.toNat } := by
  have ha : (1#1 ++ k ++ 0#2).toNat % 4 = 0 := by rw [dataOffset_toNat]; omega
  rw [exec_hostRead_idle hb ha, dataOffset_toNat, readReg_data s k.isLt]

/-! ## Which host accesses complete (R63, R65) -/

theorem hostWrite_completes (s d : State) : ∃ t, hostWrite s d = .next t := by
  unfold hostWrite
  split <;> exact ⟨_, rfl⟩

theorem ctrlGo_completes (op : BitVec 3) (s : State) : ∃ t, ctrlGo op s = .next t := by
  unfold ctrlGo
  split
  · exact ⟨_, rfl⟩
  · split
    · exact ⟨_, rfl⟩
    · split <;> exact ⟨_, rfl⟩

theorem exec_hostRead_completes {off : BitVec 10} (ha : off.extractLsb' 0 2 = 0#2) (s : State) :
    ∃ t, exec (.hostRead off) s = .next t := by
  simp only [exec, execHostRead, if_neg (not_not.2 ha)]
  split
  · split <;> exact ⟨_, rfl⟩
  · exact ⟨_, rfl⟩

/-- A write that is fetched completes, whatever the block is doing. -/
theorem fetchHost_write_completes {p : Params} {a : HostAccess} {i : Instr}
    (hf : fetchHost p a = .ok i) (hw : a.write = true) (s : State) : ∃ t, exec i s = .next t := by
  cases fetchHost_effect hf with
  | read off hr hi => rw [hw] at hr; cases hr
  | ctrl op _ ha hx => rw [hx]; exact ctrlGo_completes op s
  | operand f hx => rw [hx]; exact hostWrite_completes s _
  | ignored hx => exact ⟨s, hx s⟩

section
variable {p : Params} {a : HostAccess} (hw : a.width = 32) (hlo : p.regBase ≤ a.addr)
  (hhi : a.addr < p.regBase + 0x400)
include hw hlo hhi

/-- A 32-bit access in the window is fetched if its offset is a multiple of 4 (R62). -/
theorem fetchHost_aligned (ha : (a.addr - p.regBase) % 4 = 0) :
    let off := BitVec.ofNat 10 (a.addr - p.regBase)
    fetchHost p a = .ok (if a.write then decodeWrite off a.data else .hostRead off) := by
  intro off
  have hd : decodeHost a.write off a.data =
      .ok (if a.write then decodeWrite off a.data else .hostRead off) := by
    rw [decodeHost, if_neg (not_not.2 ((ofNat_aligned_iff _).2 ha))]
    split <;> rfl
  rw [fetchHost, if_neg (not_not.2 hw), if_neg (by omega), hd]

/-- A 32-bit access in the window at any other offset is refused (R63). -/
theorem fetchHost_misaligned (ha : (a.addr - p.regBase) % 4 ≠ 0) :
    fetchHost p a = .error .misaligned := by
  rw [fetchHost, if_neg (not_not.2 hw), if_neg (by omega), decodeHost,
    if_pos (mt (ofNat_aligned_iff _).1 ha)]

end

/-! ## The obligations -/

/-- Settles O8: by the bytes of the stored word, which the read joins again. -/
theorem dataWordsAreLittleEndian : Obligations.DataWordsAreLittleEndian := by
  unfold Obligations.DataWordsAreLittleEndian
  intro s k v hb
  obtain ⟨h0, h1, h2, h3⟩ := putWord_bytes s k.toNat v
  refine ⟨s.putData (4 * k.toNat) (wordBytes v), hostWrite_idle hb _, h0, h1, h2, h3, ?_,
    fun k' hk => putWord_dataWord_other s (mt BitVec.eq_of_toNat_eq hk) v⟩
  rw [exec_hostRead_data (by exact hb), putWord_dataWord]

/-- Settles O10: a write to a writable register is dropped, any other is ignored. -/
theorem busyWritesAreDropped : Obligations.BusyWritesAreDropped := by
  unfold Obligations.BusyWritesAreDropped
  intro s off v hb ha
  refine ⟨_, decodeHost_write ha v, ?_⟩
  split
  · rename_i hw; exact exec_decodeWrite_busy hb hw v
  · rename_i hw; exact exec_decodeWrite_ignored hw v

/-- Settles O4: each clause is the register's own layout at its offset. -/
theorem idleReadReturnsTheRegister : Obligations.IdleReadReturnsTheRegister := by
  unfold Obligations.IdleReadReturnsTheRegister
  intro s hb returns
  have reads : ∀ {off : BitVec 10} {n : Nat} {v : Word}, off.toNat = n → n % 4 = 0 →
      s.readReg n = v → returns off v := by
    rintro off _ _ rfl ha rfl
    exact exec_hostRead_idle hb ha
  have readsField : ∀ {off : BitVec 10} {n w : Nat} (x : BitVec w) (hw : w ≤ 32), off.toNat = n →
      n % 4 = 0 → s.readReg n = x.zeroExtend 32 →
      returns off ((0#(32 - w) ++ x).cast (Nat.sub_add_cancel hw)) := fun x hw ho ha hr =>
    reads ho ha (hr.trans (BitVec.setWidth_eq_append hw))
  refine ⟨readsField s.ctrlOp (by decide) rfl rfl rfl, reads rfl rfl (statusWord_idle hb),
    readsField s.cmdIdx (by decide) rfl rfl rfl, reads rfl rfl rfl,
    readsField s.respLen (by decide) rfl rfl rfl, readsField s.crcAcc (by decide) rfl rfl rfl,
    reads rfl rfl rfl, reads rfl rfl rfl, readsField s.wresp (by decide) rfl rfl rfl,
    reads rfl rfl rfl, reads rfl rfl (r1statBits_eq _), fun i => ?_, fun i => ?_, fun k hk => ?_,
    fun off ha hr => ?_, fun off t ht => ?_⟩
  · have := i.isLt
    exact readsField s.resp[i] (by decide) (rangeOffset_toNat (by omega)) (by omega)
      (readReg_resp s i)
  · have := i.isLt
    exact readsField s.frame[i] (by decide) (rangeOffset_toNat (by omega)) (by omega)
      (readReg_frame s i)
  · exact reads (rangeOffset_toNat (by omega)) (by omega) (readReg_data s hk)
  · exact exec_hostRead_reserved ((reservedOffset_iff _).2 hr) ha
  · have haligned := execHostRead_aligned ht
    rw [exec_hostRead_idle hb haligned] at ht
    cases ht
    exact exec_hostRead_idle hb haligned

/-- Settles O5: a reserved offset reads 0, and of the other registers STATUS has its exact bits. -/
theorem busyReadFixesOnlyStatus : Obligations.BusyReadFixesOnlyStatus := by
  unfold Obligations.BusyReadFixesOnlyStatus
  intro s off hb ha reserved
  refine ⟨fun hr => ?_, fun hr => exec_hostRead_reserved ((reservedOffset_iff _).2 hr) ha⟩
  by_cases hs : off = 0x004#10
  · subst hs
    exact ⟨_, exec_hostRead_status_busy hb, fun _ => statusBits_busy _ _ s.wign⟩
  · have hfree : reservedOffset off.toNat = false :=
      Bool.eq_false_iff.2 (mt (reservedOffset_iff _).1 hr)
    exact ⟨_, exec_hostRead_busy hb ha hfree hs, fun h => absurd h hs⟩

/-- Settles O39: by the checks of `fetchHost`; what is fetched completes. -/
theorem badHostAccessIsRefused : Obligations.BadHostAccessIsRefused := by
  unfold Obligations.BadHostAccessIsRefused
  intro s a rest hi
  refine ⟨fun hw => ?_, fun hw hout => ?_, fun hw hlo hhi ha => ?_, fun hw hlo hhi ha => ?_⟩
  · exact step_host_error hi (if_pos hw)
  · exact step_host_error hi ((if_neg (not_not.2 hw)).trans (if_pos hout))
  · exact step_host_error hi (fetchHost_misaligned hw hlo hhi ha)
  · have hf := fetchHost_aligned hw hlo hhi ha
    rw [step_host_ok hi hf]
    cases hwrite : a.write with
    | true => simpa [hwrite] using fetchHost_write_completes hf hwrite _
    | false => exact exec_hostRead_completes ((ofNat_aligned_iff _).2 ha) _

end Sys2Proof.Machine
end

section
/-! PROOFS. The encodings (R90 to R108): the fields a row is encoded with are read back, and on the wire they
are all the bits there are: O48, O49, O18, O36 and O51. -/

namespace Sys2Proof.Machine

/-! ## Bits and bytes of a value (R9, R90) -/

/-- A field that stands between two others is read back. -/
theorem extract_middle {a b c : Nat} (hi : BitVec a) (x : BitVec b) (lo : BitVec c) :
    (hi ++ x ++ lo).extractLsb' c b = x := by
  rw [BitVec.extractLsb'_append_eq_of_le le_rfl, Nat.sub_self, BitVec.extractLsb'_append_eq_right]

/-- A field of a field of a value. -/
theorem extract_extract {v s n t m : Nat} (x : BitVec v) (h : t + m ≤ n) :
    (x.extractLsb' s n).extractLsb' t m = x.extractLsb' (s + t) m := by
  ext i hi
  simp [show t + i < n by omega, Nat.add_assoc]

/-- A field written into the low bits of a word is read back. -/
theorem extract_zeroExtend {n m : Nat} (x : BitVec n) (h : n ≤ m) :
    (x.zeroExtend m).extractLsb' 0 n = x := by
  rw [BitVec.zeroExtend, BitVec.extractLsb'_setWidth_of_le (by omega), BitVec.extractLsb'_eq_self]

/-- A field of one bit is that bit. -/
theorem extract_bit {v : Nat} (x : BitVec v) (n : Nat) :
    x.extractLsb' n 1 = BitVec.ofBool (x.getLsbD n) := by
  rw [BitVec.getLsbD_eq_extractLsb']
  generalize x.extractLsb' n 1 = b
  revert b
  decide

/-- The bytes of a 48-bit value, the first the most significant (R90). -/
def bytes48 (w : BitVec 48) : List Byte :=
  [w.extractLsb' 40 8, w.extractLsb' 32 8, w.extractLsb' 24 8, w.extractLsb' 16 8,
    w.extractLsb' 8 8, w.extractLsb' 0 8]

/-- The six bytes of a 48-bit value, joined again. -/
theorem join48_extract (w : BitVec 48) :
    join48 (w.extractLsb' 40 8) (w.extractLsb' 32 8) (w.extractLsb' 24 8) (w.extractLsb' 16 8)
      (w.extractLsb' 8 8) (w.extractLsb' 0 8) = w := by
  unfold join48
  rw [BitVec.extractLsb'_append_extractLsb'_eq_extractLsb' (start₁ := 32) (start₂ := 40) rfl,
    BitVec.extractLsb'_append_extractLsb'_eq_extractLsb' (start₁ := 24) (start₂ := 32) rfl,
    BitVec.extractLsb'_append_extractLsb'_eq_extractLsb' (start₁ := 16) (start₂ := 24) rfl,
    BitVec.extractLsb'_append_extractLsb'_eq_extractLsb' (start₁ := 8) (start₂ := 16) rfl,
    BitVec.extractLsb'_append_extractLsb'_eq_extractLsb' (start₁ := 0) (start₂ := 8) rfl]
  exact BitVec.extractLsb'_eq_self

theorem bytes48_join48 (b0 b1 b2 b3 b4 b5 : Byte) :
    bytes48 (join48 b0 b1 b2 b3 b4 b5) = [b0, b1, b2, b3, b4, b5] := by
  obtain ⟨h0, h1, h2, h3, h4, h5⟩ := join48_bytes b0 b1 b2 b3 b4 b5
  rw [bytes48, h0, h1, h2, h3, h4, h5]

/-! ## HOST_ACCESS (R91) -/

theorem decode_hostAccess_bytes48 (w : BitVec 48) :
    decode .hostAccess (bytes48 w) =
      if w.extractLsb' 43 5 ≠ 0#5 then .error .reservedBits
      else decodeHost (w.getLsbD 42) (w.extractLsb' 32 10) (w.extractLsb' 0 32) := by
  simp only [bytes48, decode, join48_extract]

/-- The fields of a host access are read back from its bytes. -/
theorem decode_hostBytes (rw : Bool) (off : BitVec 10) (data : Word) :
    decode .hostAccess (hostBytes rw off data) = decodeHost rw off data := by
  have htop : (0#5 ++ BitVec.ofBool rw ++ off ++ data).extractLsb' 43 5 = 0#5 := by
    simp (disch := decide) only [BitVec.extractLsb'_append_eq_of_le, Nat.reduceSub,
      BitVec.extractLsb'_eq_self]
  have hrw : (0#5 ++ BitVec.ofBool rw ++ off ++ data).getLsbD 42 = rw := by
    rw [← BitVec.ofBool_eq_iff_eq, ← extract_bit]
    simp (disch := decide) only [BitVec.extractLsb'_append_eq_of_le, Nat.reduceSub,
      BitVec.extractLsb'_append_eq_right]
  refine (decode_hostAccess_bytes48 (0#5 ++ BitVec.ofBool rw ++ off ++ data)).trans ?_
  rw [if_neg (not_not.2 htop), hrw, extract_middle, BitVec.extractLsb'_append_eq_right]

/-- A write at an aligned offset is read back as the row it decodes to (R113). -/
theorem decode_hostBytes_write {off : BitVec 10} {data : Word} {i : Instr}
    (ha : off.extractLsb' 0 2 = 0#2) (hi : decodeWrite off data = i) :
    decode .hostAccess (hostBytes true off data) = .ok i := by
  rw [decode_hostBytes, decodeHost, if_neg (not_not.2 ha), if_pos rfl, hi]

theorem decodeWrite_data (k : BitVec 7) (b0 b1 b2 b3 : Byte) :
    decodeWrite (1#1 ++ k ++ 0#2) (b3 ++ b2 ++ b1 ++ b0) = .wrData k b0 b1 b2 b3 := by
  have hbit9 : (1#1 ++ k ++ 0#2).extractLsb' 9 1 = 1#1 := by
    simp (disch := decide) only [BitVec.extractLsb'_append_eq_of_le, Nat.reduceSub,
      BitVec.extractLsb'_eq_self]
  rw [decodeWrite, if_pos hbit9, extract_middle]
  simp (disch := decide) only [BitVec.extractLsb'_append_eq_of_le, Nat.reduceSub,
    BitVec.extractLsb'_append_eq_right, BitVec.extractLsb'_eq_self]

/-- Every well-formed host row is read back from its own encoding. -/
theorem decode_encode_hostAccess {i : Instr} (hf : i.format = .hostAccess)
    (hw : i.wellFormed = true) : decode .hostAccess (encode i) = .ok i := by
  cases i
  case hostRead off =>
    rw [encode, decode_hostBytes, decodeHost, if_neg (not_not.2 (beq_iff_eq.1 hw))]
    rfl
  case wrCmd idx =>
    exact decode_hostBytes_write rfl (congrArg Instr.wrCmd (extract_zeroExtend idx (by decide)))
  case wrResplen len =>
    exact decode_hostBytes_write rfl (congrArg Instr.wrResplen (extract_zeroExtend len (by decide)))
  case crcSet acc =>
    exact decode_hostBytes_write rfl (congrArg Instr.crcSet (extract_zeroExtend acc (by decide)))
  case crcFeed b =>
    exact decode_hostBytes_write rfl (congrArg Instr.crcFeed (extract_zeroExtend b (by decide)))
  case wrData k b0 b1 b2 b3 =>
    exact decode_hostBytes_write BitVec.extractLsb'_append_eq_right (decodeWrite_data k b0 b1 b2 b3)
  case wrIgnoredRsv030To03C sel | wrIgnoredResp sel | wrIgnoredFrame060To07C sel
      | wrIgnoredRsv080To0FC sel | wrIgnoredRsv100To1FC sel =>
    exact decode_hostBytes_write BitVec.extractLsb'_append_eq_right (by revert sel; decide)
  case cmdn | cmd0 | cmd8 | cmd55 | acmd41 | cmd17 | cmd24 | r1 | r1Payload | dataStart
      | writeStatus => cases hf
  all_goals exact decode_hostBytes_write rfl rfl

/-- A 32-bit access at a byte offset of the window fetches what its fields decode to (R62, R113). -/
theorem fetchHost_window {p : Params} {rw : Bool} {off : BitVec 10} {data : Word} {i : Instr}
    (h : decodeHost rw off data = .ok i) :
    fetchHost p { width := 32, write := rw, addr := p.regBase + off.toNat, data := data } = .ok i := by
  have := off.isLt
  rw [fetchHost, if_neg (not_not.2 rfl), if_neg (by simp only; omega), Nat.add_sub_cancel_left,
    BitVec.ofNat_toNat, BitVec.setWidth_eq, h]

/-! ## Command frames (R100) -/

/-- The 48-bit value of a frame, from its fields. -/
def frameWord (idx : BitVec 6) (arg : Word) (crc : BitVec 7) : BitVec 48 :=
  1#2 ++ idx ++ arg ++ crc ++ 1#1

/-- The fields of a frame stand at the bits R100 gives them. -/
theorem frameWord_fields (idx : BitVec 6) (arg : Word) (crc : BitVec 7) :
    (frameWord idx arg crc).extractLsb' 46 2 = 1#2 ∧
    (frameWord idx arg crc).extractLsb' 40 6 = idx ∧
    (frameWord idx arg crc).extractLsb' 8 32 = arg ∧
    (frameWord idx arg crc).extractLsb' 1 7 = crc ∧
    (frameWord idx arg crc).extractLsb' 0 1 = 1#1 := by
  unfold frameWord
  simp (disch := decide) only [BitVec.extractLsb'_append_eq_of_le, Nat.reduceSub,
    BitVec.extractLsb'_append_eq_right, BitVec.extractLsb'_eq_self, and_self]

theorem frameBytes_eq_bytes48 (idx : BitVec 6) (arg : Word) (crc : BitVec 7) :
    (frameBytes idx arg crc).toList = bytes48 (frameWord idx arg crc) := by
  obtain ⟨hstart, hidx, harg, hcrc, hstop⟩ := frameWord_fields idx arg crc
  have h := frame_fields _ hstart hstop
  rw [hidx, harg, hcrc] at h
  rw [h]
  rfl

/-- A frame is read back as the row its fields stand for (R104). -/
theorem decode_frameBytes (idx : BitVec 6) (arg : Word) (crc : BitVec 7) :
    decode .cmdFrame (frameBytes idx arg crc).toList = .ok (decodeFrameFields idx arg crc) := by
  obtain ⟨hstart, hidx, harg, hcrc, hstop⟩ := frameWord_fields idx arg crc
  rw [frameBytes_eq_bytes48, bytes48, decode, join48_extract, decodeFrame, if_neg (not_not.2 hstart),
    if_neg (not_not.2 hstop), hidx, harg, hcrc]

/-- A frame that no other row names is CMDn, whatever its CRC7 field. -/
theorem decodeFrameFields_of_not_named {idx : BitVec 6} {arg : Word}
    (h : namedFrame idx arg = false) (crc : BitVec 7) :
    decodeFrameFields idx arg crc = .cmdn idx arg crc := by
  simp only [namedFrame, Bool.or_eq_false_iff, Bool.and_eq_false_iff, beq_eq_false_iff_ne,
    Config.cmd8Arg, Config.cmd55Arg, Config.acmd41Arg] at h
  obtain ⟨⟨⟨⟨⟨h0, h8⟩, h55⟩, h41⟩, h17⟩, h24⟩ := h
  have unnamed : ∀ {i a c}, (idx ≠ i ∨ arg ≠ a) → ¬(idx = i ∧ arg = a ∧ crc = c) :=
    fun h ⟨hi, ha, _⟩ => h.elim (· hi) (· ha)
  rw [decodeFrameFields, if_neg h17, if_neg h24, if_neg (unnamed h0), if_neg (unnamed h8),
    if_neg (unnamed h55), if_neg (unnamed h41)]

/-- Every well-formed frame row is read back from its own encoding. -/
theorem decode_encode_cmdFrame {i : Instr} (hf : i.format = .cmdFrame)
    (hw : i.wellFormed = true) : decode .cmdFrame (encode i) = .ok i := by
  cases i
  case cmdn idx arg crc =>
    simp only [Instr.wellFormed, Bool.and_eq_true, Bool.not_eq_true'] at hw
    rw [encode, decode_frameBytes, decodeFrameFields_of_not_named hw.2]
  case cmd17 arg crc => exact decode_frameBytes 17#6 arg crc
  case cmd24 arg crc => exact decode_frameBytes 24#6 arg crc
  case cmd0 | cmd8 | cmd55 | acmd41 => decide
  all_goals cases hf

theorem encode_decodeFrameFields (idx : BitVec 6) (arg : Word) (crc : BitVec 7) :
    encode (decodeFrameFields idx arg crc) = (frameBytes idx arg crc).toList := by
  unfold decodeFrameFields
  split_ifs with h17 h24 h0 h8 h55 h41
  · rw [h17]; rfl
  · rw [h24]; rfl
  · obtain ⟨rfl, rfl, rfl⟩ := h0; rfl
  · obtain ⟨rfl, rfl, rfl⟩ := h8; rfl
  · obtain ⟨rfl, rfl, rfl⟩ := h55; rfl
  · obtain ⟨rfl, rfl, rfl⟩ := h41; rfl
  · rfl

/-- A 48-bit value accepted as a frame is what its row encodes: no bit of it is lost (R100). -/
theorem encode_of_decodeFrame {w : BitVec 48} {i : Instr} (h : decodeFrame w = .ok i) :
    encode i = bytes48 w ∧ i.format = .cmdFrame := by
  unfold decodeFrame at h
  split_ifs at h with hstart hstop
  rw [← Except.ok.inj h, encode_decodeFrameFields,
    frame_fields w (not_not.1 hstart) (not_not.1 hstop)]
  exact ⟨rfl, decodeFrameFields_format _ _ _⟩

/-! ## The bytes of a response (R105, R106) -/

/-- The bits of an R1 byte: bit 7 is 0, then the error flags and the idle bit. -/
theorem r1Byte_bits (e : BitVec 6) (i : BitVec 1) :
    (r1Byte e i).extractLsb' 7 1 = 0#1 ∧ (r1Byte e i).extractLsb' 1 6 = e ∧
      (r1Byte e i).extractLsb' 0 1 = i := by
  unfold r1Byte
  simp (disch := decide) only [BitVec.extractLsb'_append_eq_of_le, Nat.reduceSub,
    BitVec.extractLsb'_append_eq_right, BitVec.extractLsb'_eq_self, and_self]

theorem decode_r1Byte (e : BitVec 6) (i : BitVec 1) :
    decode .r1 [r1Byte e i] = .ok (.r1 e i) := by
  obtain ⟨h7, he, hi⟩ := r1Byte_bits e i
  rw [decode, decodeR1, if_neg (not_not.2 h7), he, hi]

theorem decode_encode_r1Payload (e : BitVec 6) (i : BitVec 1) (p : Word) :
    decode .r1Payload (encode (.r1Payload e i p)) = .ok (.r1Payload e i p) := by
  obtain ⟨h7, he, hi⟩ := r1Byte_bits e i
  have hp : join32 (byteOf p 3) (byteOf p 2) (byteOf p 1) (byteOf p 0) = p := append_bytes p
  rw [encode, decode, decodeR1Payload, if_neg (not_not.2 h7), he, hi, hp]

/-- A byte with bit 7 clear and the four bytes after it are what their row encodes (R106). -/
theorem encode_r1Payload_fields {b : Byte} (h : b.extractLsb' 7 1 = 0#1) (p1 p2 p3 p4 : Byte) :
    encode (.r1Payload (b.extractLsb' 1 6) (b.extractLsb' 0 1) (join32 p1 p2 p3 p4)) =
      [b, p1, p2, p3, p4] := by
  simp (disch := decide) only [encode, r1Byte_fields h, join32, byteOf, Nat.reduceMul,
    BitVec.extractLsb'_append_eq_of_le, Nat.reduceSub, BitVec.extractLsb'_append_eq_right,
    BitVec.extractLsb'_eq_self]

/-! ## The obligations -/

/-- Settles O48: by the format of the row; the fields a row is encoded with are read back. -/
theorem decodingAnEncodingGivesItBack : Obligations.DecodingAnEncodingGivesItBack := by
  unfold Obligations.DecodingAnEncodingGivesItBack
  intro i hw
  cases i
  case cmdn | cmd0 | cmd8 | cmd55 | acmd41 | cmd17 | cmd24 => exact decode_encode_cmdFrame rfl hw
  case r1 e j => exact decode_r1Byte e j
  case r1Payload e j p => exact decode_encode_r1Payload e j p
  case dataStart | writeStatus => rfl
  all_goals exact decode_encode_hostAccess rfl hw

/-- Settles O49: in each wire format the fields the decoder reads are all the bits there are. -/
theorem encodingADecodedWireStringGivesItBack :
    Obligations.EncodingADecodedWireStringGivesItBack := by
  unfold Obligations.EncodingADecodedWireStringGivesItBack
  intro f bytes i hf h
  unfold decode at h
  split at h
  next => exact absurd rfl hf
  next b0 b1 b2 b3 b4 b5 =>
    exact bytes48_join48 b0 b1 b2 b3 b4 b5 ▸ encode_of_decodeFrame h
  next b =>
    unfold decodeR1 at h
    split_ifs at h with h7
    cases h
    exact ⟨congrArg (fun c => [c]) (r1Byte_fields (not_not.1 h7)), rfl⟩
  next b p1 p2 p3 p4 =>
    unfold decodeR1Payload at h
    split_ifs at h with h7
    cases h
    exact ⟨encode_r1Payload_fields (not_not.1 h7) p1 p2 p3 p4, rfl⟩
  next b =>
    unfold decodeDataStart at h
    split_ifs at h with hb
    cases h
    exact ⟨congrArg (fun c => [c]) hb.symm, rfl⟩
  next b =>
    cases h
    exact ⟨rfl, rfl⟩
  next => cases h

/-- Settles O18: RESP holds the bytes that encode the response, and the two views read them back. -/
theorem r1PayloadEndsItsExchange : Obligations.R1PayloadEndsItsExchange := by
  unfold Obligations.R1PayloadEndsItsExchange
  intro s w c e i p hs t
  obtain ⟨h7, he, hi⟩ := r1Byte_bits e i
  have hresp : putAt s.resp 0 (encode (.r1Payload e i p)) = t.resp := by
    ext k hk
    rw [putAt_getElem]
    interval_cases k <;> rfl
  refine ⟨?_, append_bytes p, ?_⟩
  · have : exec (.r1Payload e i p) s =
        .next ((s.putResp 0 (encode (.r1Payload e i p))).beginCsOff (.cmd w)) := by
      simp only [exec, execR1Payload, hs, encode]
    rw [this, State.putResp, hresp]
    rfl
  · have : t.r1statWord = r1statBits (r1Byte e i) := rfl
    rw [this, r1statBits, h7, he, hi, r1Byte]
    simp only [BitVec.append_assoc, BitVec.cast_eq]
    rfl

/-- Settles O36: the access is fetched; for an encoded row, because its encoding is read back (O48). -/
theorem stepRunsTheHostAccess : Obligations.StepRunsTheHostAccess := by
  unfold Obligations.StepRunsTheHostAccess
  refine ⟨fun s rw off data i rest hi hd => step_host_ok hi (fetchHost_window hd),
    fun s i w rest hf hw he hi => step_host_ok hi (fetchHost_window ?_)⟩
  have h := decode_encode_hostAccess hf hw
  rw [show encode i = bytes48 w from he, decode_hostAccess_bytes48] at h
  split_ifs at h
  exact h

/-- Settles O51: by running the decoder on each word. -/
theorem wordsOfTheSpecDecode : Obligations.WordsOfTheSpecDecode := by
  unfold Obligations.WordsOfTheSpecDecode
  decide

end Sys2Proof.Machine
end

section
/-! PROOFS. The host rows of the opcode table (R91, R113): a row fixes some fields of the 43-bit value and
no other bit, and the decoder reads those fields: O50. -/

namespace Sys2Proof.Machine

/-! ## Rows as fixed fields -/

/-- A fixed field of a HOST_ACCESS row: its lowest bit, its width, and the value that stands there. -/
structure FixedField where
  start : Nat
  length : Nat
  value : Nat

def FixedField.mask (f : FixedField) : BitVec 43 :=
  (BitVec.allOnes f.length).zeroExtend 43 <<< f.start

def FixedField.pattern (f : FixedField) : BitVec 43 :=
  (BitVec.ofNat f.length f.value).zeroExtend 43 <<< f.start

def FixedField.holds (f : FixedField) (w : BitVec 43) : Prop :=
  w.extractLsb' f.start f.length = BitVec.ofNat f.length f.value

/-- The row that fixes these fields and no other bit. -/
def fieldRow (mnemonic : String) (fs : List FixedField) : HostRow where
  mnemonic := mnemonic
  pattern := fs.foldr (fun f p => f.pattern ||| p) 0#43
  mask := fs.foldr (fun f m => f.mask ||| m) 0#43

theorem FixedField.holds.and_mask {f : FixedField} {w : BitVec 43} (h : f.holds w) :
    w &&& f.mask = f.pattern := by
  rw [FixedField.pattern, ← show w.extractLsb' f.start f.length = _ from h]
  ext i hi
  by_cases hs : i < f.start
  · simp [FixedField.mask, hs]
  · obtain ⟨k, rfl⟩ := Nat.exists_eq_add_of_le (not_lt.1 hs)
    simp [FixedField.mask, hi, Bool.and_comm]

theorem fieldRow_covers {name : String} {fs : List FixedField} {w : BitVec 43}
    (h : ∀ f ∈ fs, f.holds w) : (fieldRow name fs).covers w = true := by
  rw [HostRow.covers, beq_iff_eq]
  induction fs with
  | nil => exact BitVec.and_zero
  | cons f fs ih =>
    obtain ⟨hf, hfs⟩ := List.forall_mem_cons.1 h
    exact BitVec.and_or_distrib_left.trans (congrArg₂ _ hf.and_mask (ih hfs))

/-! ## At most one row covers a value -/

/-- Any two patterns differ in a bit that both rows fix. -/
theorem hostRows_disjoint :
    hostRows.Pairwise fun r r' => r.pattern &&& r'.mask ≠ r'.pattern &&& r.mask := by decide

theorem pattern_and_mask_of_covers {r r' : HostRow} {w : BitVec 43} (h : r.covers w = true)
    (h' : r'.covers w = true) : r.pattern &&& r'.mask = r'.pattern &&& r.mask := by
  rw [← beq_iff_eq.1 h, ← beq_iff_eq.1 h', BitVec.and_assoc, BitVec.and_assoc,
    BitVec.and_comm r.mask]

/-- Of a list whose members exclude each other, a test keeps the one member that passes it. -/
theorem filter_eq_singleton {α : Type} {p : α → Bool} {a : α} {l : List α}
    (hl : l.Pairwise fun b c => p b = true → ¬p c = true) (ha : a ∈ l) (hp : p a = true) :
    l.filter p = [a] := by
  induction hl with
  | nil => cases ha
  | cons hb _ ih =>
    rcases List.mem_cons.1 ha with rfl | ha
    · rw [List.filter_cons_of_pos hp, List.filter_eq_nil_iff.2 fun c hc => hb c hc hp]
    · rw [List.filter_cons_of_neg fun h => hb a ha h hp, ih ha]

/-- A row that covers a value is the only one that does. -/
theorem filter_covers {r : HostRow} {w : BitVec 43} (hr : r ∈ hostRows)
    (h : r.covers w = true) : hostRows.filter (fun r => r.covers w) = [r] :=
  filter_eq_singleton
    (hostRows_disjoint.imp fun hne hb hc => hne (pattern_and_mask_of_covers hb hc)) hr h

/-- A value that a row covers has an aligned offset (R63). -/
theorem aligned_of_covers {r : HostRow} {w : BitVec 43} (hr : r ∈ hostRows)
    (h : r.covers w = true) : (w.extractLsb' 32 10).extractLsb' 0 2 = 0#2 := by
  have hrow : ∀ r ∈ hostRows, r.mask.extractLsb' 32 2 = BitVec.allOnes 2 ∧
      r.pattern.extractLsb' 32 2 = 0#2 := by decide
  obtain ⟨hmask, hpattern⟩ := hrow r hr
  rw [extract_extract w (by decide), ← hpattern, ← beq_iff_eq.1 h, BitVec.extractLsb'_and, hmask,
    BitVec.and_allOnes]

/-! ## The decoder reads a covering row's instruction -/

/-- A row of the table covers a value and has an instruction's name. -/
def Named (w : BitVec 43) (i : Instr) : Prop :=
  ∃ r ∈ hostRows, r.covers w = true ∧ r.mnemonic = i.mnemonic

theorem Named.filter {w : BitVec 43} {i : Instr} (h : Named w i) :
    ∃ r, hostRows.filter (fun r => r.covers w) = [r] ∧ r.mnemonic = i.mnemonic := by
  obtain ⟨r, hr, hc, hm⟩ := h
  exact ⟨r, filter_covers hr hc, hm⟩

theorem named_of_fields {w : BitVec 43} {i : Instr} {name : String} {fs : List FixedField}
    (hi : name = i.mnemonic) (hr : fieldRow name fs ∈ hostRows) (h : ∀ f ∈ fs, f.holds w) :
    Named w i :=
  ⟨_, hr, fieldRow_covers h, hi⟩

theorem named_hostRead {w : BitVec 43} (hw : w.extractLsb' 42 1 = 0#1)
    (ha : (w.extractLsb' 32 10).extractLsb' 0 2 = 0#2) :
    Named w (.hostRead (w.extractLsb' 32 10)) := by
  rw [extract_extract w (by decide)] at ha
  exact named_of_fields (name := "HOST_READ") (fs := [⟨42, 1, 0⟩, ⟨32, 2, 0⟩]) rfl (by decide)
    (by simpa using ⟨hw, ha⟩)

section
variable {w : BitVec 43} (hw : w.extractLsb' 42 1 = 1#1)
include hw

/-- A CTRL write is covered by the row of its op code (R92). -/
theorem named_ctrl (ho : w.extractLsb' 32 10 = 0#10) :
    Named w (decodeCtrl ((w.extractLsb' 0 32).extractLsb' 0 3)) := by
  have hrow : ∀ op : BitVec 3, fieldRow (decodeCtrl op).mnemonic
      [⟨42, 1, 1⟩, ⟨32, 10, 0⟩, ⟨0, 3, op.toNat⟩] ∈ hostRows := by decide
  rw [extract_extract w (by decide)]
  generalize hop : w.extractLsb' 0 3 = op
  exact named_of_fields rfl (hrow op) (by simp [FixedField.holds, hw, ho, hop])

/-- The rows of writes at one offset. -/
theorem named_register {o : Nat} {i : Instr} (name : String)
    (ho : w.extractLsb' 32 10 = BitVec.ofNat 10 o) (hi : name = i.mnemonic)
    (hr : fieldRow name [⟨42, 1, 1⟩, ⟨32, 10, o⟩] ∈ hostRows) : Named w i :=
  named_of_fields hi hr (by simpa using ⟨hw, ho⟩)

variable (ha : (w.extractLsb' 32 10).extractLsb' 0 2 = 0#2)
include ha

/-- The rows of writes at a range of offsets: some top bits are fixed, and the offset is aligned. -/
theorem named_range {s n c : Nat} {i : Instr} (name : String)
    (ho : (w.extractLsb' 32 10).extractLsb' s n = BitVec.ofNat n c) (hs : s + n ≤ 10)
    (hi : name = i.mnemonic)
    (hr : fieldRow name [⟨42, 1, 1⟩, ⟨32 + s, n, c⟩, ⟨32, 2, 0⟩] ∈ hostRows) : Named w i := by
  rw [extract_extract w hs] at ho
  rw [extract_extract w (by decide)] at ha
  exact named_of_fields hi hr (by simpa using ⟨hw, ho, ha⟩)

theorem named_decodeLowWrite (hlow : (w.extractLsb' 32 10).toNat < 0x040) :
    Named w (decodeLowWrite (w.extractLsb' 32 10) (w.extractLsb' 0 32)) := by
  unfold decodeLowWrite
  refine iteInduction (fun h => named_ctrl hw h) fun h000 => ?_
  refine iteInduction (fun h => named_register hw "WR_IGNORED_STATUS" h rfl (by decide))
    fun h004 => ?_
  refine iteInduction (fun h => named_register hw "WR_CMD" h rfl (by decide)) fun h008 => ?_
  refine iteInduction (fun h => named_register hw "WR_ARG" h rfl (by decide)) fun h00C => ?_
  refine iteInduction (fun h => named_register hw "WR_RESPLEN" h rfl (by decide)) fun h010 => ?_
  refine iteInduction (fun h => named_register hw "CRC_SET" h rfl (by decide)) fun h014 => ?_
  refine iteInduction (fun h => named_register hw "CRC_FEED" h rfl (by decide)) fun h018 => ?_
  refine iteInduction (fun h => named_register hw "WR_IGNORED_ACMD41CNT" h rfl (by decide))
    fun h01C => ?_
  refine iteInduction (fun h => named_register hw "WR_IGNORED_WRESP" h rfl (by decide))
    fun h020 => ?_
  refine iteInduction (fun h => named_register hw "WR_IGNORED_PAYLOAD" h rfl (by decide))
    fun h024 => ?_
  refine iteInduction (fun h => named_register hw "WR_IGNORED_R1STAT" h rfl (by decide))
    fun h028 => ?_
  refine iteInduction (fun h => named_register hw "WR_IGNORED_RSV_02C" h rfl (by decide))
    fun h02C => ?_
  have htop : (w.extractLsb' 32 10).extractLsb' 4 6 = 3#6 := by
    generalize w.extractLsb' 32 10 = off at *
    rw [aligned_iff] at ha
    simp only [BitVec.toNat_eq, BitVec.toNat_ofNat, BitVec.extractLsb'_toNat,
      Nat.shiftRight_eq_div_pow] at h000 h004 h008 h00C h010 h014 h018 h01C h020 h024 h028 h02C ⊢
    omega
  exact named_range hw ha "WR_IGNORED_RSV_030_03C" htop (by decide) rfl (by decide)

theorem named_decodeWrite :
    Named w (decodeWrite (w.extractLsb' 32 10) (w.extractLsb' 0 32)) := by
  unfold decodeWrite
  refine iteInduction (fun h => named_range hw ha "WR_DATA" h (by decide) rfl (by decide))
    fun h200 => ?_
  refine iteInduction
    (fun h => named_range hw ha "WR_IGNORED_RSV_100_1FC" h (by decide) rfl (by decide))
    fun h100 => ?_
  refine iteInduction
    (fun h => named_range hw ha "WR_IGNORED_RSV_080_0FC" h (by decide) rfl (by decide))
    fun h080 => ?_
  refine iteInduction
    (fun h => named_range hw ha "WR_IGNORED_FRAME_060_07C" h (by decide) rfl (by decide))
    fun h060 => ?_
  refine iteInduction (fun h => named_range hw ha "WR_IGNORED_RESP" h (by decide) rfl (by decide))
    fun h040 => ?_
  have hlow : (w.extractLsb' 32 10).toNat < 0x040 := by
    generalize w.extractLsb' 32 10 = off at *
    have := off.isLt
    simp only [BitVec.toNat_eq, BitVec.toNat_ofNat, BitVec.extractLsb'_toNat,
      Nat.shiftRight_eq_div_pow] at h200 h100 h080 h060 h040
    omega
  exact named_decodeLowWrite hw ha hlow

end

/-! ## The obligation -/

/-- Settles O50: the row of each branch of the decoder covers the value, and no two rows overlap; every
row needs an aligned offset, so none covers what the decoder refuses. -/
theorem decoderFollowsTheOpcodeTable : Obligations.DecoderFollowsTheOpcodeTable := by
  unfold Obligations.DecoderFollowsTheOpcodeTable
  intro w
  unfold decodeHostWord decodeHost
  by_cases ha : (w.extractLsb' 32 10).extractLsb' 0 2 = 0#2
  · rw [if_neg (not_not.2 ha)]
    have hbit := extract_bit w 42
    cases hw : w.getLsbD 42 with
    | false => exact (named_hostRead (hbit.trans (congrArg BitVec.ofBool hw)) ha).filter
    | true => exact (named_decodeWrite (hbit.trans (congrArg BitVec.ofBool hw)) ha).filter
  · rw [if_pos ha]
    exact List.filter_eq_nil_iff.2 fun r hr hc => ha (aligned_of_covers hr hc)

end Sys2Proof.Machine
end

section
/-! PROOFS. Host writes (R131 to R135): what an operand write stores, what a CTRL write starts or ends at
once, and the writes that have no effect: O7, O11, O12 and O13. -/

namespace Sys2Proof.Machine

/-! ## Operand writes (R131) -/

/-- A word written at the offset of DATA word `k` is stored there byte by byte. -/
theorem decodeHost_data (k : BitVec 7) (v : Word) :
    decodeHost true (1#1 ++ k ++ 0#2) v = .ok (.wrData k (v.extractLsb' 0 8) (v.extractLsb' 8 8)
      (v.extractLsb' 16 8) (v.extractLsb' 24 8)) := by
  have ha : (1#1 ++ k ++ 0#2).toNat % 4 = 0 := by rw [dataOffset_toNat]; omega
  rw [decodeHost_write ha, ← decodeWrite_data, append_bytes]

/-- DATA after four bytes are stored at `i` and up. -/
theorem putData_four_dataByte (s : State) (i j : Nat) (b0 b1 b2 b3 : Byte) :
    (s.putData i [b0, b1, b2, b3]).dataByte j =
      if j = i then b0 else if j = i + 1 then b1 else if j = i + 2 then b2
      else if j = i + 3 then b3 else s.dataByte j := by
  have hlen : [b0, b1, b2, b3].length = 4 := rfl
  rw [putData_dataByte, hlen]
  by_cases hin : i ≤ j ∧ j < i + 4
  · obtain ⟨d, rfl⟩ := Nat.exists_eq_add_of_le hin.1
    have hd : d < 4 := by omega
    interval_cases d <;> simp
  · rw [if_neg hin, if_neg (by omega), if_neg (by omega), if_neg (by omega), if_neg (by omega)]

/-! ## CTRL writes (R132, R133) -/

/-- A CTRL write is decoded from bits 2:0 of its word alone (R92). -/
theorem decodeHost_ctrl (v : Word) :
    decodeHost true 0x000#10 v = .ok (decodeCtrl (v.extractLsb' 0 3)) :=
  decodeHost_write rfl v

/-- RESPLEN is illegal for SEND_CMD outside 1 to 8 (R96). -/
theorem legalLen_eq_false_iff (len : BitVec 4) :
    legalLen len = false ↔ len.toNat = 0 ∨ 9 ≤ len.toNat := by
  rw [legalLen, decide_eq_false_iff_not, Config.maxRespLen]
  omega

/-- The reserved op codes are 0 and 5 to 7 (R93). -/
theorem opOfCode_eq_none_iff : ∀ op : BitVec 3, opOfCode op = none ↔ op = 0#3 ∨ 5 ≤ op.toNat := by
  decide

section
variable {s : State} (hb : s.busy = false)
include hb

/-- A CTRL write with a reserved op code ends at once. -/
theorem ctrlGo_reserved {op : BitVec 3} (ho : opOfCode op = none) :
    ctrlGo op s = .next ((s.latch op).endOp .badOp) := by
  simp [ctrlGo, hb, ho]

/-- A SEND_CMD whose RESPLEN is not 1 to 8 ends at once. -/
theorem ctrlGo_badResplen (hl : legalLen s.respLen = false) :
    ctrlGo 1#3 s = .next ((s.latch 1#3).endOp .badResplen) := by
  simp [ctrlGo, hb, opOfCode, hl]

/-- Any other CTRL write starts the operation its op code names. -/
theorem ctrlGo_starts {op : BitVec 3} {o : Op} (ho : opOfCode op = some o)
    (hl : o = .sendCmd → legalLen s.respLen = true) :
    ctrlGo op s = .next ((s.latch op).launch o) := by
  have hlegal : ¬(o = .sendCmd ∧ legalLen s.respLen = false) := fun ⟨hs, hf⟩ =>
    Bool.false_ne_true (hf.symm.trans (hl hs))
  simp [ctrlGo, hb, ho, if_neg hlegal]

/-- An illegal start ends at once, with the detail of what was wrong with it (R133). -/
theorem ctrlGo_illegal {op : BitVec 3}
    (h : op = 0#3 ∨ 5 ≤ op.toNat ∨ (op = 1#3 ∧ (s.respLen.toNat = 0 ∨ 9 ≤ s.respLen.toNat))) :
    ctrlGo op s =
      .next ((s.latch op).endOp (if op = 1#3 then .badResplen else .badOp)) := by
  rw [← or_assoc, ← opOfCode_eq_none_iff, ← legalLen_eq_false_iff] at h
  rcases h with ho | ⟨rfl, hl⟩
  · have hne : op ≠ 1#3 := by rintro rfl; cases ho
    rw [if_neg hne, ctrlGo_reserved hb ho]
  · exact ctrlGo_badResplen hb hl

end

/-! ## The obligations -/

/-- Settles O11: the eleven rows do nothing, and every read-only or reserved offset decodes to one. -/
theorem ignoredWritesChangeNothing : Obligations.IgnoredWritesChangeNothing := by
  unfold Obligations.IgnoredWritesChangeNothing
  refine ⟨fun s x2 x3 x5 x6 => ⟨rfl, rfl, rfl, rfl, rfl, rfl, rfl, rfl, rfl, rfl, rfl⟩,
    fun s off v ha ho => ⟨_, decodeHost_write ha v, exec_decodeWrite_ignored ?_ v⟩⟩
  unfold writableOffset
  omega

/-- Settles O13: the CTRL write is an illegal start, which ends within it. -/
theorem illegalStartEndsAtOnce : Obligations.IllegalStartEndsAtOnce := by
  unfold Obligations.IllegalStartEndsAtOnce
  intro s v hb op h
  have hkind : (if op = 1#3 then Detail.badResplen else .badOp).kind = .illegal := by
    split <;> rfl
  exact ⟨_, _, decodeHost_ctrl v, (exec_decodeCtrl op s).trans (ctrlGo_illegal hb h), rfl, hkind,
    rfl, rfl, rfl, rfl, rfl, rfl, rfl, rfl, rfl, rfl, rfl, rfl, rfl, rfl, rfl, rfl, rfl, rfl⟩

/-- Settles O7: an idle write stores its field, a busy one is dropped. -/
theorem operandWriteStoresItsField : Obligations.OperandWriteStoresItsField := by
  unfold Obligations.OperandWriteStoresItsField
  refine ⟨fun s v hb => ⟨hostWrite_idle hb _, hostWrite_idle hb _, hostWrite_idle hb _⟩,
    fun s k b0 b1 b2 b3 hb => ⟨_, hostWrite_idle hb _,
      fun j => putData_four_dataByte s (4 * k.toNat) j b0 b1 b2 b3⟩,
    fun s v k b0 b1 b2 b3 hb =>
      ⟨hostWrite_busy hb _, hostWrite_busy hb _, hostWrite_busy hb _, hostWrite_busy hb _⟩,
    fun v k => ⟨decodeHost_write rfl v, decodeHost_write rfl v, decodeHost_write rfl v,
      decodeHost_data k v⟩⟩

/-- Settles O12: every op code is a `ctrlGo`, which starts, ends at once or is dropped. -/
theorem ctrlWriteStartsTheOperation : Obligations.CtrlWriteStartsTheOperation := by
  unfold Obligations.CtrlWriteStartsTheOperation
  intro s latched started ended
  refine ⟨fun hb => ?_, fun hb i hi => ?_, fun v => ?_⟩
  · have starts (op : BitVec 3) {o : Op} (ho : opOfCode op = some o) (hne : o ≠ .sendCmd) :
        ctrlGo op s = .next (started op o) := ctrlGo_starts hb ho fun h => absurd h hne
    have reserved (op : BitVec 3) (ho : opOfCode op = none) :
        ctrlGo op s = .next (ended op .badOp) := ctrlGo_reserved hb ho
    exact ⟨fun hl => ctrlGo_starts (op := 1#3) hb rfl fun _ => decide_eq_true hl,
      fun hl => ctrlGo_badResplen hb ((legalLen_eq_false_iff _).2 hl),
      starts 2#3 rfl nofun, starts 3#3 rfl nofun, starts 4#3 rfl nofun,
      reserved 0#3 rfl, reserved 5#3 rfl, reserved 6#3 rfl, reserved 7#3 rfl⟩
  · have hcode : ∃ op, i = decodeCtrl op := by revert i; decide
    obtain ⟨op, rfl⟩ := hcode
    exact (exec_decodeCtrl op s).trans (ctrlGo_busy hb op)
  · rw [decodeHost_ctrl]
    generalize v.extractLsb' 0 3 = op
    fin_cases op <;> rfl

end Sys2Proof.Machine
end

section
/-! PROOFS. The CRC7 engine (R150 to R155): the shift register, the fold over a string, the algebra of both
and the host's two CRC registers: O9, O52, O53, O54 and O55. -/

namespace Sys2Proof.Machine

/-! ## One bit of the shift register (R150) -/

/-- The feedback is added at x^3 and x^0 after the shift. -/
theorem crc7Bit_eq_xor (s : BitVec 7) (b : Bool) :
    crc7Bit s b = (s <<< 1) ^^^ (if b ^^ s.getLsbD 6 then 0x09#7 else 0#7) := by
  unfold crc7Bit
  split
  · rfl
  · exact BitVec.xor_zero.symm

theorem crc7Bit_xor (s t : BitVec 7) (a b : Bool) :
    crc7Bit (s ^^^ t) (a ^^ b) = crc7Bit s a ^^^ crc7Bit t b := by
  have hfeedback : ∀ p q : Bool, (if p ^^ q then 0x09#7 else 0#7) =
      (if p then 0x09#7 else 0#7) ^^^ (if q then 0x09#7 else 0#7) := by decide
  have hsplit : ((a ^^ b) ^^ (s ^^^ t).getLsbD 6) = ((a ^^ s.getLsbD 6) ^^ (b ^^ t.getLsbD 6)) := by
    rw [BitVec.getLsbD_xor, Bool.xor_assoc, Bool.xor_left_comm b, ← Bool.xor_assoc]
  rw [crc7Bit_eq_xor, crc7Bit_eq_xor, crc7Bit_eq_xor, hsplit, hfeedback,
    BitVec.shiftLeft_xor_distrib]
  ac_rfl

/-- One turn of R150's loop, in the 8-bit accumulator. -/
def accumulatorBit (s : BitVec 8) (b : Bool) : BitVec 8 :=
  if b ^^ s.getLsbD 6 then ((s <<< 1) &&& 0x7F#8) ^^^ 0x09#8 else (s <<< 1) &&& 0x7F#8

/-- The accumulator holds the 7-bit register below a 0. -/
theorem accumulatorBit_zero_append : ∀ (s : BitVec 7) (b : Bool),
    accumulatorBit (0#1 ++ s) b = 0#1 ++ crc7Bit s b := by
  decide

theorem and_7F_eq_zero_append : ∀ c : BitVec 8, c &&& 0x7F#8 = 0#1 ++ c.extractLsb' 0 7 := by
  decide

/-! ## Bytes and strings (R150, R151) -/

theorem msbFirst_eq_map (b : Byte) : msbFirst b = [7, 6, 5, 4, 3, 2, 1, 0].map b.getLsbD := rfl

theorem crc7Update_xor (b1 b2 : Byte) (c1 c2 : BitVec 7) :
    crc7Update (b1 ^^^ b2) (c1 ^^^ c2) = crc7Update b1 c1 ^^^ crc7Update b2 c2 := by
  simp only [crc7Update, msbFirst, List.foldl, BitVec.getLsbD_xor, crc7Bit_xor]

@[simp] theorem crc7Update_zero_zero : crc7Update 0x00#8 0x00#7 = 0x00#7 := by decide

@[simp] theorem crc7Of_nil : crc7Of [] = 0#7 := rfl

theorem crc7Of_concat (s : List Byte) (b : Byte) : crc7Of (s ++ [b]) = crc7Update b (crc7Of s) :=
  List.foldl_concat ..

theorem crc7Of_replicate_zero (k : Nat) : crc7Of (List.replicate k 0x00#8) = 0#7 := by
  induction k with
  | zero => rfl
  | succ k ih => rw [List.replicate_succ', crc7Of_concat, ih, crc7Update_zero_zero]

theorem crc7Of_replicate_zero_append (k : Nat) (s : List Byte) :
    crc7Of (List.replicate k 0x00#8 ++ s) = crc7Of s := by
  rw [crc7Of, List.foldl_append, ← crc7Of, crc7Of_replicate_zero, ← crc7Of]

/-! ## The engine over GF(2) (R155) -/

section
open Polynomial

/-- A bit as a coefficient. -/
def bitCoeff (b : Bool) : ZMod 2 := if b then 1 else 0

/-- A bit vector as a polynomial, bit `i` the coefficient of `X ^ i`. -/
noncomputable def bitsPoly {n : Nat} (v : BitVec n) : (ZMod 2)[X] :=
  ∑ i : Fin n, if v.getLsbD i.val then X ^ i.val else 0

/-- A byte string as a polynomial, bit 7 of byte 0 the leading coefficient. -/
noncomputable def messagePoly (s : List Byte) : (ZMod 2)[X] :=
  s.foldl (fun m b => m * X ^ 8 + bitsPoly b) 0

/-- The polynomial G of R155. -/
noncomputable def crc7Poly : (ZMod 2)[X] := X ^ 7 + X ^ 3 + 1

theorem bitCoeff_xor : ∀ a b : Bool, bitCoeff (a ^^ b) = bitCoeff a + bitCoeff b := by decide

theorem bitsPoly_eq_sum {n : Nat} (v : BitVec n) :
    bitsPoly v = ∑ i : Fin n, C (bitCoeff (v.getLsbD i)) * X ^ i.val :=
  Finset.sum_congr rfl fun i _ => by cases v.getLsbD i <;> simp [bitCoeff]

theorem bitsPoly_degree_lt {n : Nat} (v : BitVec n) : (bitsPoly v).degree < n := by
  rw [bitsPoly_eq_sum]
  exact degree_sum_fin_lt _

theorem bitsPoly_xor {n : Nat} (v w : BitVec n) :
    bitsPoly (v ^^^ w) = bitsPoly v + bitsPoly w := by
  simp only [bitsPoly_eq_sum, BitVec.getLsbD_xor, bitCoeff_xor, C_add, add_mul,
    Finset.sum_add_distrib]

/-- A shift multiplies by X and drops the leading coefficient. -/
theorem bitsPoly_shiftLeft_one (s : BitVec 7) :
    bitsPoly (s <<< 1) + C (bitCoeff (s.getLsbD 6)) * X ^ 7 = bitsPoly s * X := by
  have hlow : C (bitCoeff ((s <<< 1).getLsbD 0)) = 0 := by simp [bitCoeff]
  have hhigh (i : Fin 6) : (s <<< 1).getLsbD (i + 1) = s.getLsbD i := by
    have hi : i.val + 1 < 7 := by omega
    rw [BitVec.getLsbD_shiftLeft, decide_eq_true hi, Nat.add_sub_cancel]
    simp
  rw [bitsPoly_eq_sum s, Fin.sum_univ_castSucc, bitsPoly_eq_sum, Fin.sum_univ_succ, add_mul,
    Finset.sum_mul]
  simp only [Fin.val_zero, Fin.val_succ, Fin.val_castSucc, Fin.val_last, hlow, hhigh, zero_mul,
    zero_add, mul_assoc, ← pow_succ]

/-- The feedback is the coefficient of X^3 + 1. -/
theorem bitsPoly_feedback (f : Bool) :
    bitsPoly (if f then 0x09#7 else 0#7) = C (bitCoeff f) * (X ^ 3 + 1) := by
  cases f <;> simp [bitsPoly, bitCoeff, Fin.sum_univ_seven, add_comm]

/-- Shifting in bit `b` gives `s * X + b * X ^ 7`, reduced by G when the feedback is 1. -/
theorem bitsPoly_crc7Bit (s : BitVec 7) (b : Bool) :
    bitsPoly (crc7Bit s b) = bitsPoly s * X + C (bitCoeff b) * X ^ 7 +
      crc7Poly * C (bitCoeff (b ^^ s.getLsbD 6)) := by
  have htwo : (2 : (ZMod 2)[X]) = 0 := CharTwo.two_eq_zero
  rw [crc7Bit_eq_xor, bitsPoly_xor, bitsPoly_feedback, bitCoeff_xor, C_add, crc7Poly]
  linear_combination bitsPoly_shiftLeft_one s -
    (C (bitCoeff b) + C (bitCoeff (s.getLsbD 6))) * X ^ 7 * htwo

/-- The register `c` is congruent to `m * X ^ 7` modulo G. -/
def TracksMessage (c : BitVec 7) (m : (ZMod 2)[X]) : Prop := crc7Poly ∣ bitsPoly c - m * X ^ 7

theorem tracksMessage_crc7Bit {c : BitVec 7} {m : (ZMod 2)[X]} (h : TracksMessage c m) (b : Bool) :
    TracksMessage (crc7Bit c b) (m * X + C (bitCoeff b)) := by
  have hstep : bitsPoly (crc7Bit c b) - (m * X + C (bitCoeff b)) * X ^ 7 =
      (bitsPoly c - m * X ^ 7) * X + crc7Poly * C (bitCoeff (b ^^ c.getLsbD 6)) := by
    rw [bitsPoly_crc7Bit]
    ring
  rw [TracksMessage, hstep]
  exact dvd_add (h.mul_right X) (dvd_mul_right ..)

/-- Horner's rule over the bits of a byte. -/
theorem foldl_msbFirst (b : Byte) (m : (ZMod 2)[X]) :
    (msbFirst b).foldl (fun m b => m * X + C (bitCoeff b)) m = m * X ^ 8 + bitsPoly b := by
  simp only [msbFirst, List.foldl, bitsPoly_eq_sum, Fin.sum_univ_eight, Fin.coe_ofNat_eq_mod]
  ring

theorem tracksMessage_crc7Update {c : BitVec 7} {m : (ZMod 2)[X]} (h : TracksMessage c m)
    (b : Byte) : TracksMessage (crc7Update b c) (m * X ^ 8 + bitsPoly b) := by
  rw [← foldl_msbFirst]
  exact List.foldl_rel h fun b _ _ _ h => tracksMessage_crc7Bit h b

theorem tracksMessage_crc7Of (s : List Byte) : TracksMessage (crc7Of s) (messagePoly s) := by
  have hzero : TracksMessage 0#7 0 := by simp [TracksMessage, bitsPoly]
  exact List.foldl_rel hzero fun b _ _ _ h => tracksMessage_crc7Update h b

theorem crc7Poly_degree : crc7Poly.degree = 7 := by
  unfold crc7Poly
  compute_degree!

theorem crc7Poly_monic : crc7Poly.Monic := by
  unfold crc7Poly
  monicity!

/-- A register is a remainder modulo G, so its congruence determines it. -/
theorem TracksMessage.eq_modByMonic {c : BitVec 7} {m : (ZMod 2)[X]} (h : TracksMessage c m) :
    bitsPoly c = (m * X ^ 7) %ₘ crc7Poly := by
  have hself : bitsPoly c %ₘ crc7Poly = bitsPoly c :=
    (modByMonic_eq_self_iff crc7Poly_monic).2 (crc7Poly_degree ▸ bitsPoly_degree_lt c)
  rw [← hself, modByMonic_eq_of_dvd_sub crc7Poly_monic h]

end

/-! ## The obligations -/

/-- Settles O52: each turn of the loop is `crc7Bit` in the low seven bits of the accumulator. -/
theorem crcUpdateIsTheShiftRegister : Obligations.CrcUpdateIsTheShiftRegister := by
  unfold Obligations.CrcUpdateIsTheShiftRegister
  refine ⟨fun b c => ?_, crc7Update_zero_zero, by decide⟩
  have hturn (s : BitVec 7) (i : Nat) :
      accumulatorBit (0#1 ++ s) (b.getLsbD i) = 0#1 ++ crc7Bit s (b.getLsbD i) :=
    accumulatorBit_zero_append s _
  rw [crc7Update, msbFirst_eq_map, List.foldl_map, and_7F_eq_zero_append]
  exact (List.foldl_hom (0#1 ++ ·) hturn).symm

/-- Settles O54: linearity bit by bit; a zero byte leaves state 0. -/
theorem crcIsLinear : Obligations.CrcIsLinear :=
  ⟨crc7Update_xor, crc7Of_replicate_zero_append⟩

/-- Settles O55: every bit keeps the register congruent to the message so far. -/
theorem crcIsThePolynomialRemainder : Obligations.CrcIsThePolynomialRemainder := by
  unfold Obligations.CrcIsThePolynomialRemainder
  intro s
  exact (tracksMessage_crc7Of s).eq_modByMonic

/-- Settles O9: an idle write is done, a busy one is dropped. -/
theorem crcRegisterWrites : Obligations.CrcRegisterWrites := by
  unfold Obligations.CrcRegisterWrites
  exact ⟨fun s v hb => ⟨hostWrite_idle hb _, hostWrite_idle hb _⟩,
    fun s v hb => ⟨hostWrite_busy hb _, hostWrite_busy hb _⟩,
    fun v => ⟨decodeHost_write rfl v, decodeHost_write rfl v⟩, crc7Update_zero_zero, by decide⟩

/-- Settles O53: the fold, and the source's vector by evaluation. -/
theorem crcOfAStringIsTheFold : Obligations.CrcOfAStringIsTheFold := by
  unfold Obligations.CrcOfAStringIsTheFold
  exact ⟨crc7Of_nil, crc7Of_concat, by decide⟩

end Sys2Proof.Machine
end

section
/-! PROOFS. One rule per move of a command exchange: what the step is at the point that sends a frame, that
has read R1, that has its last chunk, that has chip-select answered (R171 to R174, R200 to R204): O14 to O17,
O25, O29, O37 and O38. -/

namespace Sys2Proof.Machine

/-! ## The step at a point -/

section
variable {s : State} {rest : List Event}

/-- Undisturbed, the sequencer makes its own move. -/
theorem step_own {m : Move} (hu : s.undisturbed = true) (ho : ownMove s = some m) :
    step s = m.outcome := by
  cases hi : s.inbox with
  | nil => exact step_nil_own hi ho
  | cons e rest =>
    cases e with
    | answer a => exact step_answer_own hi ho
    | host | time | reset | otherAgent | staleAnswer =>
      simp [State.undisturbed, hi, Event.landsFirst] at hu

theorem step_start {op : Op} (hu : s.undisturbed = true) (hs : s.seq = .run (.start op)) :
    step s = .next (s.startOp op) :=
  step_own (m := .done (.next (s.startOp op))) hu (by simp [ownMove, hs])

/-- The frame about to be sent is fetched from FRAME (R171). -/
theorem step_frame {w : Cmd} {i : Instr} (hu : s.undisturbed = true)
    (hs : s.seq = .run (.issueCmd w)) (hd : decode .cmdFrame s.frame.toList = .ok i) :
    step s = exec i s :=
  step_own (m := .execute i s) hu (by simp [ownMove, hs, hd])

/-- An answer that completes a wire row runs that row. -/
theorem step_wire {a : Answer} {r : Request} {p : Point} {i : Instr}
    (hi : s.inbox = .answer a :: rest) (hr : s.req = some r) (hs : s.seq = .run p)
    (hfit : r.fits a = true) (hw : fetchWire { s with inbox := rest } p a = some i) :
    step s = exec i { s with inbox := rest, req := none } := by
  have ho : ownMove s = none := by cases fetchWire_row hw <;> subst_vars <;> simp [ownMove, hs]
  rw [step_answer_move hi ho, answerMove_wire { s with inbox := rest } hr hs hfit hw]
  rfl

theorem step_csOn_ok {b : Exchange} (hi : s.inbox = .answer (.ok []) :: rest)
    (hr : s.req = some .csAssert) (hs : s.seq = .run (.csOn b)) :
    step s = .next (({ s with inbox := rest, req := none }.csAssertAnswered true).afterCsOn b) :=
  step_answer hi hr hs (by simp [ownMove, hs]) rfl rfl

theorem step_csOff_ok {b : Exchange} (hi : s.inbox = .answer (.ok []) :: rest)
    (hr : s.req = some .csDeassert) (hs : s.seq = .run (.csOff b)) :
    step s = .next (({ s with inbox := rest, req := none }.csDeassertAnswered true).afterCsOff b) :=
  step_answer hi hr hs (by simp [ownMove, hs]) rfl rfl

end

/-! ## The bytes of a frame (R100, R170) -/

theorem frameByte_zero : ∀ idx : BitVec 6,
    0x40#8 ||| idx.zeroExtend 8 = 0x40#8 ||| (0#2 ++ idx) ∧
      0x40#8 ||| idx.zeroExtend 8 = 1#2 ++ idx ∧
      (0x40#8 ||| idx.zeroExtend 8).extractLsb' 6 2 = 1#2 := by decide

theorem frameByte_five : ∀ crc : BitVec 7,
    crc ++ 1#1 = ((0#1 ++ crc) <<< 1) ||| 1#8 ∧ (crc ++ 1#1).getLsbD 0 = true := by decide

/-- The bytes of a frame, its start bits written as the field they are (R100). -/
theorem frameBytes_fields (idx : BitVec 6) (arg : Word) (crc : BitVec 7) :
    frameBytes idx arg crc = #v[1#2 ++ idx, arg.extractLsb' 24 8, arg.extractLsb' 16 8,
      arg.extractLsb' 8 8, arg.extractLsb' 0 8, crc ++ 1#1] := by
  rw [frameBytes, (frameByte_zero idx).2.1]
  rfl

/-- A frame row, where one is about to be sent, sends the bytes that encode it. -/
theorem exec_frameRow_sends {s : State} {w : Cmd} {i : Instr} {f : Vector Byte 6}
    (hi : i.format = .cmdFrame) (hf : f.toList = encode i) (hs : s.seq = .run (.issueCmd w)) :
    exec i s = .next
      ({ s with acmd41cnt := frameCount i s.seq s.acmd41cnt }.openCommand w f) := by
  have sends (f' : Vector Byte 6) (hx : exec i s =
      sendFrame f' { s with acmd41cnt := frameCount i s.seq s.acmd41cnt })
      (he : f'.toList = encode i) : exec i s = .next
        ({ s with acmd41cnt := frameCount i s.seq s.acmd41cnt }.openCommand w f) := by
    rw [hx, Vector.toList_inj.1 (hf.trans he.symm)]
    exact sendFrame_at (by exact hs) f'
  cases i
  case cmdn | cmd0 | cmd8 | cmd55 | cmd17 | cmd24 => exact sends _ rfl rfl
  case acmd41 =>
    refine sends #v[0x69#8, 0x40#8, 0x00#8, 0x00#8, 0x00#8, 0x77#8] ?_ rfl
    simp only [exec, execAcmd41, frameCount, true_and]
    split <;> rfl
  all_goals cases hi

theorem frameCount_other {i : Instr} (hi : i ≠ .acmd41) (q : Seq) (n : Word) :
    frameCount i q n = n := if_neg fun h => hi h.1

/-- ACMD41CNT counts up to its greatest value and stays there (R29). -/
theorem saturatingSucc_eq_min (n : Word) :
    saturatingSucc n = BitVec.ofNat 32 (min (n.toNat + 1) 0xFFFFFFFF) := by
  have hlt := n.isLt
  have hmax : n = 0xFFFFFFFF#32 ↔ n.toNat = 0xFFFFFFFF := BitVec.toNat_inj.symm
  unfold saturatingSucc
  apply BitVec.eq_of_toNat_eq
  split
  · rename_i h
    subst h
    rfl
  · rename_i h
    rw [hmax] at h
    rw [Nat.min_eq_left (by omega), BitVec.toNat_add, BitVec.toNat_ofNat]
    rfl

/-- An encoding has the number of bytes of its row's format (R90). -/
theorem encode_length (i : Instr) : (encode i).length = i.format.length := by
  cases i <;> rfl

/-! ## The strings of a transfer (R109, R200) -/

theorem chunk_zero (size : Nat) (str : List Byte) : chunk size str 0 = str.take size := by
  simp [chunk]

/-- A transfer of FILL bytes alone asks for as many of them as one chunk holds. -/
theorem beginXfer_fills {s : State} {x : Xfer} {n : Nat}
    (h : x.outgoing s = List.replicate n Config.fill) :
    s.beginXfer x =
      (s.issue (.bulk (List.replicate (min s.params.chunkSize n) 0xFF#8))).goto (.xfer x 0) := by
  rw [State.beginXfer, State.beginChunk, h, chunk_zero, List.take_replicate]
  rfl

/-- A byte string stored at RESP[n ..] after the bytes already at RESP[0 .. n-1] (R106). -/
theorem putAt_take_append (v : Vector Byte 8) {n : Nat} (hn : n ≤ 8) (bs : List Byte) :
    putAt v 0 (v.toList.take n ++ bs) = putAt v n bs := by
  refine Vector.ext fun k hk => ?_
  have hlen : (v.toList.take n).length = n := by simp [hn]
  rw [putAt_getElem, putAt_getElem, if_pos k.zero_le, Nat.sub_zero, List.getElem?_append, hlen]
  by_cases h : n ≤ k
  · rw [if_neg (Nat.not_lt.2 h), if_pos h]
  · rw [if_pos (Nat.not_le.1 h), if_neg h, List.getElem?_take_of_lt (Nat.not_le.1 h)]
    simp [hk]

/-- R1_PAYLOAD stores the bytes it was decoded from: those that RESP holds already, and the last chunk's
behind them (R171 steps 5 and 6). -/
theorem exec_r1Payload_last {s : State} {w : Cmd} {c n : Nat} {bs : List Byte} {i : Instr}
    (hs : s.seq = .run (.xfer (.rest w) c))
    (hd : decode .r1Payload (s.resp.toList.take n ++ bs) = .ok i) :
    exec i s = .next ((s.putResp n bs).beginCsOff (.cmd w)) := by
  obtain ⟨e, j, q, rfl⟩ := decode_r1Payload (congrArg Except.toOption hd)
  have he := (encodingADecodedWireStringGivesItBack .r1Payload _ _ (by decide) hd).1
  have hn : n ≤ 8 := by
    have hlen := congrArg List.length he
    simp only [encode, List.length_append, List.length_take, Vector.length_toList,
      List.length_cons, List.length_nil] at hlen
    omega
  have hx : exec (.r1Payload e j q) s =
      .next ((s.putResp 0 (encode (.r1Payload e j q))).beginCsOff (.cmd w)) := by
    simp only [exec, execR1Payload, hs, encode]
  rw [hx, he, State.putResp, putAt_take_append _ hn]
  rfl

/-- The last chunk of a transfer, answered `ok`: its bytes land and the pseudocode goes on. A five-byte
response comes to the same whether its row runs or not. -/
theorem step_chunk_last {s : State} {x : Xfer} {c : Nat} {str bs : List Byte} {rest : List Event}
    (hi : s.inbox = .answer (.ok bs) :: rest) (hr : s.req = some (.bulk str))
    (hs : s.seq = .run (.xfer x c)) (hl : bs.length = str.length)
    (hm : x.size s ≤ (c + 1) * s.params.chunkSize) :
    step s = .next (({ s with inbox := rest, req := none }.land x c bs).afterXfer x) := by
  have hfit : (Request.bulk str).fits (.ok bs) = true := by simp [Request.fits, hl]
  cases hw : fetchWire { s with inbox := rest } (.xfer x c) (.ok bs) with
  | none =>
    obtain ⟨resp, data, hland⟩ := land_keeps { s with inbox := rest, req := none } x c bs
    have hlast : ({ s with inbox := rest, req := none }.land x c bs).moreChunks x c = false := by
      rw [State.moreChunks, size_congr (s := s) x (by rw [hland]) (by rw [hland]), hland]
      exact decide_eq_false (Nat.not_lt.2 hm)
    rw [step_answer hi hr hs (by simp [ownMove, hs]) hfit hw]
    simp only [State.onAnswer, hlast, Bool.false_eq_true, if_false]
  | some i =>
    rw [step_wire hi hr hs hfit hw]
    cases fetchWire_row hw with
    | r1 _ _ _ hp | dataStart hp | writeStatus _ hp => cases hp
    | r1Payload w c' bs' e j q hp ha hd =>
      cases hp
      cases ha
      refine exec_r1Payload_last (s := { s with inbox := rest, req := none }) hs ?_
      cases hdec : decode .r1Payload (s.resp.toList.take (1 + c * s.params.chunkSize) ++ bs) with
      | ok i => rw [hdec] at hd; exact congrArg Except.ok (Option.some.inj hd)
      | error => rw [hdec] at hd; cases hd

/-! ## The end of an exchange (R134, R171) -/

/-- Ending an operation that does not own chip-select leaves `cs_owned` as it is. -/
theorem endOp_not_owned {s : State} (ho : s.csOwned = false) (d : Detail) :
    s.endOp d =
      { s with err := d.kind, detail := d, seq := .idle, busy := false, done := true } := by
  simp [State.endOp, ho]

theorem exec_r1_at {s : State} {w : Cmd} (hs : s.seq = .run (.poll (.r1 w))) (e : BitVec 6)
    (i : BitVec 1) : exec (.r1 e i) s = .next (s.storeR1 w (r1Byte e i)) := by
  simp only [exec, execR1, hs]

/-- R1 is stored, and an exchange that asked for one byte is closed. -/
theorem storeR1_closing {s : State} {w : Cmd} (h : w.len s ≤ 1) (r : Byte) :
    s.storeR1 w r = { s with resp := s.resp.set 0 r }.beginCsOff (.cmd w) := by
  have hlen : w.len (s.putResp 0 [r]) = w.len s := len_congr w rfl rfl
  simp only [State.storeR1]
  rw [if_neg (by omega), State.putResp, putAt_zero_one]

/-- R1 is stored, and the rest of a longer response is requested. -/
theorem storeR1_going_on {s : State} {w : Cmd} (h : 1 < w.len s) (r : Byte) :
    s.storeR1 w r = { s with resp := s.resp.set 0 r }.beginXfer (.rest w) := by
  have hlen : w.len (s.putResp 0 [r]) = w.len s := len_congr w rfl rfl
  simp only [State.storeR1]
  rw [if_pos (by omega), State.putResp, putAt_zero_one]

/-! ## The obligations -/

/-- Settles O17: R1 is stored, and the two cases are those of `storeR1`. -/
theorem r1EndsItsPoll : Obligations.R1EndsItsPoll := by
  unfold Obligations.R1EndsItsPoll
  intro s w e i hs r
  rw [exec_r1_at hs]
  refine ⟨fun h => ?_, fun h => ?_⟩
  · rw [storeR1_closing h]
    rfl
  · rw [storeR1_going_on h, beginXfer_fills (n := w.len s - 1)]
    · rfl
    · exact congrArg (fun n => List.replicate (n - 1) Config.fill) (len_congr w rfl rfl)

/-- Settles O29: the last chunk lands nowhere, and each transfer is followed as `afterXfer` says. -/
theorem afterADiscardedTransfer : Obligations.AfterADiscardedTransfer := by
  unfold Obligations.AfterADiscardedTransfer
  intro s x c str bs rest hs hr hl hi hm fills asks
  rw [step_chunk_last hi hr hs hl hm]
  refine ⟨?_, ?_, ?_, ?_, ?_, ?_, ?_, ?_⟩
  · rintro rfl
    have hframe : buildFrame 0#6 0#32 = #v[0x40#8, 0x00#8, 0x00#8, 0x00#8, 0x00#8, 0x95#8] := by
      decide +kernel
    rw [← hframe]
    rfl
  · rintro w rfl
    rfl
  · rintro rfl
    exact congrArg Host.Outcome.next (beginXfer_fills (n := 8) rfl)
  · rintro rfl
    rfl
  · rintro rfl
    rw [State.afterXfer, State.beginXfer, State.beginChunk, chunk_zero]
    rfl
  · rintro rfl
    exact congrArg Host.Outcome.next (beginXfer_fills (n := 2) rfl)
  · rintro rfl
    rfl
  · rintro rfl
    rfl

/-- Settles O14: undisturbed, the step is `startOp`, which builds a frame or asks for FILL bytes. -/
theorem firstStepOfEachOperation : Obligations.FirstStepOfEachOperation := by
  unfold Obligations.FirstStepOfEachOperation
  intro s hu
  refine ⟨step_start hu, fun hs => ?_, step_start hu, step_start hu⟩
  rw [step_start hu hs, State.startOp, beginXfer_fills (n := s.params.nPowerup) rfl]
  rfl

/-- Settles O15: the bytes by their fields, the frames of R104 by evaluation. -/
theorem buildFrameBytes : Obligations.BuildFrameBytes := by
  unfold Obligations.BuildFrameBytes
  refine ⟨fun idx arg => ?_, fun _ _ => rfl, by decide +kernel⟩
  obtain ⟨hhead, -, hstart⟩ := frameByte_zero idx
  obtain ⟨hlast, hstop⟩ := frameByte_five (frameCrc idx arg)
  exact ⟨hhead, rfl, rfl, rfl, rfl, hlast, hstart, hstop⟩

/-- Settles O16: every row sends the bytes that encode it; ACMD41 alone counts. -/
theorem frameRowsOpenTheExchange : Obligations.FrameRowsOpenTheExchange := by
  unfold Obligations.FrameRowsOpenTheExchange
  intro s w hs sent
  have sends {i : Instr} {f : Vector Byte 6} (hi : i.format = .cmdFrame) (hne : i ≠ .acmd41)
      (hf : f.toList = encode i) : exec i s = .next (sent s f) := by
    rw [exec_frameRow_sends hi hf hs, frameCount_other hne]
    rfl
  refine ⟨fun idx arg crc => sends rfl nofun ?_, sends rfl nofun rfl, sends rfl nofun rfl,
    sends rfl nofun rfl, ?_, fun arg crc => sends rfl nofun ?_, fun arg crc => sends rfl nofun ?_⟩
  · rw [encode, frameBytes_fields]
  · have hcount : frameCount .acmd41 s.seq s.acmd41cnt = if w = .acmd41 then
        BitVec.ofNat 32 (min (s.acmd41cnt.toNat + 1) 0xFFFFFFFF) else s.acmd41cnt := by
      simp only [frameCount, hs, Seq.run.injEq, Point.issueCmd.injEq, true_and,
        saturatingSucc_eq_min]
    rw [exec_frameRow_sends (f := #v[0x69#8, 0x40#8, 0x00#8, 0x00#8, 0x00#8, 0x77#8]) rfl rfl hs,
      hcount]
    rfl
  · rfl
  · rfl

/-- Settles O25: the answer closes the exchange, and `afterCsOff` goes on; chip-select is not owned. -/
theorem exchangesEndTheirOperation : Obligations.ExchangesEndTheirOperation := by
  unfold Obligations.ExchangesEndTheirOperation
  intro s b rest hs hr ho hi closed ended opened
  have ends (d : Detail) : closed.endOp d = ended d.kind d := endOp_not_owned (s := closed) ho d
  have fails (d : Detail) : closed.raise d = ended d.kind d :=
    (raise_not_owned (s := closed) ho d).trans (ends d)
  have hstep : step s = .next (closed.afterCsOff b) := step_csOff_ok hi hr hs
  rw [hstep]
  refine ⟨?_, ?_, ?_⟩
  · rintro (rfl | rfl | rfl) <;> exact congrArg Host.Outcome.next (ends .none)
  · rintro rfl
    simp only [State.afterCsOff, State.afterCmd, fails]
    rfl
  · rintro rfl
    simp only [State.afterCsOff, State.afterCmd, fails]
    rfl

/-- Settles O37: the frame is fetched from FRAME, and a well-formed row is read back from its bytes. -/
theorem stepRunsTheFrame : Obligations.StepRunsTheFrame := by
  unfold Obligations.StepRunsTheFrame
  exact ⟨fun s w i hs hu hd => step_frame hu hs hd,
    fun s w i hs hu hf hw he => step_frame hu hs (he ▸ decode_encode_cmdFrame hf hw)⟩

/-- Settles O38: the bytes are read in the format of their point, and a row is read back from its bytes. -/
theorem stepRunsTheWireRow : Obligations.StepRunsTheWireRow := by
  unfold Obligations.StepRunsTheWireRow
  intro s i rest hw answered
  have hback {f : Format} (hf : i.format = f) : (decode f (encode i)).toOption = some i :=
    congrArg Except.toOption (hf ▸ decodingAnEncodingGivesItBack i hw)
  have hfits {n : Nat} {bs : List Byte} (h : bs.length = n) :
      (Request.bulk (List.replicate n 0xFF#8)).fits (.ok bs) = true := by simp [Request.fits, h]
  have hlen {f : Format} (hf : i.format = f) : (encode i).length = f.length :=
    hf ▸ encode_length i
  refine ⟨fun hp hr hi => ?_, fun w c hf hs hfive hlo hhi hr hresp hi => ?_, ?_⟩
  · rcases hp with ⟨hf, w, hs⟩ | ⟨hf, hs⟩ | ⟨hf, hs⟩
    · exact step_wire hi hr hs (hfits (n := 1) (hlen hf)) (hback hf)
    · exact step_wire hi hr hs (hfits (n := 1) (hlen hf)) (hback hf)
    · exact step_wire hi hr hs (hfits (n := 1) (hlen hf)) (hback hf)
  · have hlast : { s with inbox := rest }.moreChunks (.rest w) c = false :=
      decide_eq_false (Nat.not_lt.2 ((congrArg (· - 1) hfive).le.trans hhi))
    refine step_wire hi hr hs (hfits ?_) ?_
    · rw [List.length_drop, hlen hf, Format.length]
      omega
    · rw [fetchWire, if_pos ⟨hfive, hlast⟩]
      simp only [hresp, List.take_append_drop, hback hf]
  · rintro rfl hs hu
    exact step_own (m := .execute .dataStart s) hu (by simp [ownMove, hs])

end Sys2Proof.Machine
end

section
/-! PROOFS. Runs of the sequencer against a transport that answers `ok`: a chunked transfer, a poll, a command
exchange (R171, R200, R204), each said once for every operation that makes it; and SEND_CMD, which is one
exchange: O56. -/

namespace Sys2Proof.Machine

/-! ## Runs -/

theorem steps_add {k : Nat} {s t : State} (h : steps k s = .next t) (n : Nat) :
    steps (k + n) s = steps n t := by
  induction k generalizing s with
  | zero => cases h; rw [Nat.zero_add]
  | succ k ih =>
    rw [Nat.add_right_comm]
    simp only [steps] at h ⊢
    cases hu : step s with
    | next u =>
      rw [hu] at h
      exact ih h
    | fault f => simp [hu] at h
    | refused r => simp [hu] at h

theorem steps_one (s : State) : steps 1 s = step s := by
  simp only [steps]
  cases step s <;> rfl

/-- Some number of steps leads from `s` to `t`. -/
def Reaches (s t : State) : Prop := ∃ k, steps k s = .next t

theorem Reaches.trans {s t u : State} (h : Reaches s t) (h' : Reaches t u) : Reaches s u := by
  obtain ⟨k, hk⟩ := h
  obtain ⟨n, hn⟩ := h'
  exact ⟨k + n, (steps_add hk n).trans hn⟩

theorem Reaches.of_step {s t : State} (h : step s = .next t) : Reaches s t :=
  ⟨1, (steps_one s).trans h⟩

theorem answersOf_append (as bs : List (List Byte)) :
    answersOf (as ++ bs) = answersOf as ++ answersOf bs := List.map_append

/-! ## The chunks of a string (R200) -/

/-- With `n + 1` chunks, the last one starts inside the string and reaches its end. -/
theorem length_of_chunks {size n : Nat} {str : List Byte} (hs : 1 ≤ size)
    (h : (chunks size str).length = n + 1) :
    n * size < str.length ∧ str.length ≤ (n + 1) * size := by
  rw [chunks, List.length_map, List.length_range, Nat.div_eq_iff hs] at h
  simp only [Nat.add_mul] at h ⊢
  omega

theorem chunks_ne_nil {size : Nat} {str : List Byte} (hs : 1 ≤ size) (hl : 1 ≤ str.length) :
    chunks size str ≠ [] := by
  have : 1 ≤ (str.length + size - 1) / size := (Nat.le_div_iff_mul_le hs).2 (by omega)
  rw [chunks, Ne, List.map_eq_nil_iff, List.range_eq_nil]
  omega

theorem chunks_nil {size : Nat} (hs : 1 ≤ size) : chunks size [] = [] := by
  have : (0 + size - 1) / size = 0 := Nat.div_eq_of_lt (by omega)
  rw [chunks, List.length_nil, this]
  rfl

/-- The lengths of the chunks depend on the length of the string alone. -/
theorem chunks_map_length {size : Nat} {as bs : List Byte} (h : as.length = bs.length) :
    (chunks size as).map List.length = (chunks size bs).map List.length := by
  simp [chunks, chunk_length, h]

/-- Strings of the lengths of the chunks of a string: all but the last are full. -/
theorem full_but_last {size : Nat} {str : List Byte} {got : List (List Byte)} (hs : 1 ≤ size)
    (hl : 1 ≤ str.length) (h : got.map List.length = (chunks size str).map List.length) :
    ∃ front last, got = front ++ [last] ∧ (chunks size str).length = front.length + 1 ∧
      front.map List.length = List.replicate front.length size ∧
      last.length = (chunk size str front.length).length := by
  have hnum : got.length = (chunks size str).length := by simpa using congrArg List.length h
  rcases List.eq_nil_or_concat got with rfl | ⟨front, last, rfl⟩
  · exact absurd (List.length_eq_zero_iff.1 hnum.symm) (chunks_ne_nil hs hl)
  · rw [List.concat_eq_append] at *
    have hcount : (chunks size str).length = front.length + 1 := by rw [← hnum]; simp
    have hceil : (str.length + size - 1) / size = front.length + 1 := by
      simpa [chunks] using hcount
    rw [chunks, hceil, List.range_succ, List.map_append, List.map_append, List.map_append] at h
    obtain ⟨hfront, hlast⟩ := List.append_inj h (by simp)
    have hfull : ∀ k ∈ List.range front.length, (chunk size str k).length = size := by
      intro k hk
      have hle : (k + 1) * size ≤ front.length * size :=
        Nat.mul_le_mul_right _ (List.mem_range.1 hk)
      have := (length_of_chunks hs hcount).1
      rw [Nat.succ_mul] at hle
      rw [chunk_length]
      omega
    refine ⟨front, last, rfl, hcount, ?_, by simpa using hlast⟩
    have hall := (List.map_eq_replicate_iff (f := List.length ∘ chunk size str)).2 hfull
    rw [List.length_range] at hall
    rw [hfront, List.map_map, hall]

theorem flatten_chunks_take (size : Nat) (str : List Byte) (n : Nat) :
    ((List.range n).map (chunk size str)).flatten = str.take (n * size) := by
  induction n with
  | zero => simp
  | succ n ih =>
    rw [List.range_succ, List.map_append, List.flatten_append, ih, Nat.succ_mul, List.take_add]
    simp [chunk]

/-- The chunks of a string rebuild it (R201). -/
theorem chunks_flatten {size : Nat} (hs : 1 ≤ size) (str : List Byte) :
    (chunks size str).flatten = str := by
  rw [chunks, flatten_chunks_take, List.take_of_length_le]
  have := Nat.lt_mul_div_succ (str.length + size - 1) hs
  rw [Nat.mul_comm, Nat.add_mul] at this
  omega

/-! ## Where received bytes land (R109, R171, R252) -/

/-- Bytes received from number `i` on in the transfer `x` go where those of its chunks go. -/
def State.deliver (s : State) (x : Xfer) (i : Nat) (bs : List Byte) : State :=
  match x with
  | .rest _ => s.putResp (1 + i) bs
  | .block => s.putData i bs
  | .powerUp | .frame _ | .readCrc | .readPad | .token | .copy | .dummyCrc | .writePad => s

theorem land_eq_deliver (s : State) (x : Xfer) (c : Nat) (bs : List Byte) :
    s.land x c bs = s.deliver x (c * s.params.chunkSize) bs := by
  cases x <;> rfl

theorem putAt_append (v : Vector Byte 8) (i : Nat) (as bs : List Byte) :
    putAt (putAt v i as) (i + as.length) bs = putAt v i (as ++ bs) := by
  refine Vector.ext fun k hk => ?_
  simp only [putAt_getElem]
  by_cases hlo : i ≤ k
  · by_cases hhi : i + as.length ≤ k
    · have hge : as.length ≤ k - i := by omega
      rw [if_pos hhi, if_pos hlo, if_pos hlo, List.getElem?_append_right hge,
        List.getElem?_eq_none hge, Nat.sub_add_eq]
      rfl
    · rw [if_neg hhi, if_pos hlo, if_pos hlo, List.getElem?_append_left (by omega)]
      rfl
  · rw [if_neg hlo, if_neg hlo, if_neg (by omega)]
    rfl

theorem Memory.writeBytes_append (m : Memory) (a : Nat) (as bs : List Byte) :
    Memory.writeBytes (Memory.writeBytes m a as) (a + as.length) bs =
      Memory.writeBytes m a (as ++ bs) := by
  induction as generalizing m a with
  | nil => rfl
  | cons b as ih =>
    rw [List.length_cons, Nat.add_comm as.length 1, ← Nat.add_assoc]
    exact ih _ _

theorem deliver_append (s : State) (x : Xfer) (i : Nat) (as bs : List Byte) :
    (s.deliver x i as).deliver x (i + as.length) bs = s.deliver x i (as ++ bs) := by
  cases x with
  | rest w =>
    simp only [State.deliver, State.putResp, ← Nat.add_assoc, putAt_append]
  | block =>
    simp only [State.deliver, State.putData, ← Nat.add_assoc, Memory.writeBytes_append]
  | _ => rfl

theorem deliver_nil (s : State) (x : Xfer) (i : Nat) : s.deliver x i [] = s := by
  cases x with
  | rest w =>
    have : putAt s.resp (1 + i) [] = s.resp := by
      refine Vector.ext fun k hk => ?_
      rw [putAt_getElem]
      split <;> rfl
    simp only [State.deliver, State.putResp, this]
  | _ => rfl

/-! ## A chunked transfer answered `ok` (R200) -/

/-- The state `n` chunks after chunk `c` of the transfer `x`: the bytes `bs` have landed since, and
chunk `c + n` is outstanding. -/
def State.chunksOn (s : State) (x : Xfer) (c n : Nat) (bs : List Byte) (rest : List Event) : State :=
  let piece (k : Nat) : Request := .bulk (chunk s.params.chunkSize (x.outgoing s) k)
  { s.deliver x (c * s.params.chunkSize) bs with
    inbox := rest, req := some (piece (c + n)),
    wire := ((List.range' (c + 1) n).map piece).reverse ++ s.wire, seq := .run (.xfer x (c + n)) }

section
variable {s : State} {x : Xfer} {c : Nat}

theorem chunksOn_zero (hs : s.seq = .run (.xfer x c))
    (hr : s.req = some (.bulk (chunk s.params.chunkSize (x.outgoing s) c))) :
    s.chunksOn x c 0 [] s.inbox = s := by
  rw [State.chunksOn, deliver_nil]
  simp [← hs, ← hr]

/-- What a chunk answered `ok`, with more to come, leaves. -/
theorem chunksOn_one (s : State) (x : Xfer) (c : Nat) (bs : List Byte) (rest : List Event) :
    ({ s with inbox := rest, req := none }.land x c bs).beginChunk x
      (x.outgoing ({ s with inbox := rest, req := none }.land x c bs)) (c + 1) =
      s.chunksOn x c 1 bs rest := by
  obtain ⟨resp, data, hland⟩ := land_keeps { s with inbox := rest, req := none } x c bs
  rw [outgoing_congr (s := s) x (by rw [hland]) (by rw [hland]) (by rw [hland]) (by rw [hland])
    (by rw [hland])]
  cases x <;> rfl

theorem outgoing_chunksOn (s : State) (x : Xfer) (c n : Nat) (bs : List Byte)
    (rest : List Event) : x.outgoing (s.chunksOn x c n bs rest) = x.outgoing s := by
  cases x with
  | rest w => cases w <;> rfl
  | _ => rfl

theorem params_chunksOn (s : State) (x : Xfer) (c n : Nat) (bs : List Byte) (rest : List Event) :
    (s.chunksOn x c n bs rest).params = s.params := by
  cases x <;> rfl

theorem size_chunksOn (s : State) (x : Xfer) (c n : Nat) (bs : List Byte) (rest : List Event) :
    x.size (s.chunksOn x c n bs rest) = x.size s := by
  rw [← outgoing_length, outgoing_chunksOn, outgoing_length]

/-- One full chunk and then `n` more are `n + 1` chunks. -/
theorem chunksOn_chunksOn {n : Nat} {as bs : List Byte} {rest rest' : List Event}
    (h : as.length = s.params.chunkSize) :
    (s.chunksOn x c 1 as rest').chunksOn x (c + 1) n bs rest =
      s.chunksOn x c (n + 1) (as ++ bs) rest := by
  have hat : (c + 1) * s.params.chunkSize = c * s.params.chunkSize + as.length := by
    rw [h, Nat.succ_mul]
  have hnum : c + 1 + n = c + (n + 1) := by omega
  rw [State.chunksOn, outgoing_chunksOn, params_chunksOn, hat, hnum, State.chunksOn,
    State.chunksOn, ← deliver_append]
  cases x <;> simp [State.deliver, State.putResp, State.putData, List.range'_succ]

/-- Chunks answered `ok` with more to come: one step each. -/
theorem steps_chunks {got : List (List Byte)} {rest : List Event} (hs : s.seq = .run (.xfer x c))
    (hr : s.req = some (.bulk (chunk s.params.chunkSize (x.outgoing s) c)))
    (hi : s.inbox = answersOf got ++ rest)
    (hmore : (c + got.length) * s.params.chunkSize < x.size s)
    (hlen : got.map List.length = List.replicate got.length s.params.chunkSize) :
    steps got.length s = .next (s.chunksOn x c got.length got.flatten rest) := by
  induction got generalizing s c with
  | nil =>
    obtain rfl : s.inbox = rest := hi
    rw [List.length_nil, List.flatten_nil, chunksOn_zero hs hr]
    rfl
  | cons bs got ih =>
    simp only [List.map_cons, List.length_cons, List.replicate_succ, List.cons.injEq] at hlen
    obtain ⟨hfull, hlen⟩ := hlen
    replace hi : s.inbox = .answer (.ok bs) :: (answersOf got ++ rest) := hi
    have hnext : (c + 1) * s.params.chunkSize < x.size s :=
      (Nat.mul_le_mul_right _ (by simp)).trans_lt hmore
    have hpiece : bs.length = (chunk s.params.chunkSize (x.outgoing s) c).length := by
      rw [chunk_length, outgoing_length, hfull, Nat.min_eq_left]
      rw [Nat.succ_mul] at hnext
      omega
    have hstep : step s = .next (s.chunksOn x c 1 bs (answersOf got ++ rest)) := by
      rw [step_chunk_next hi hr hs hpiece (decide_eq_true hnext), chunksOn_one]
    have hp := params_chunksOn s x c 1 bs (answersOf got ++ rest)
    have ho := outgoing_chunksOn s x c 1 bs (answersOf got ++ rest)
    rw [List.length_cons, Nat.add_comm, steps_add ((steps_one s).trans hstep),
      ih rfl (by rw [hp, ho]; rfl) rfl, chunksOn_chunksOn hfull, Nat.add_comm]
    · rfl
    · rw [hp, size_chunksOn]
      simpa [Nat.add_assoc, Nat.add_comm 1] using hmore
    · rw [hp, hlen]

end

/-- The state after all chunks of the transfer `x`, begun in `u`, have been answered with the bytes `bs`. -/
def State.transferred (u : State) (x : Xfer) (bs : List Byte) (rest : List Event) : State :=
  { u.deliver x 0 bs with
    inbox := rest, req := none,
    wire := ((chunks u.params.chunkSize (x.outgoing u)).map .bulk).reverse ++ u.wire }

/-- What follows a transfer does not depend on the point it ended at. -/
theorem afterXfer_seq (s : State) (x : Xfer) (q : Seq) :
    { s with seq := q }.afterXfer x = s.afterXfer x := by
  cases x <;> rfl

/-- All chunks but the last, and then the last, are the whole transfer. -/
theorem land_last {u : State} {x : Xfer} {n : Nat} {as : List Byte}
    (hn : (chunks u.params.chunkSize (x.outgoing u)).length = n + 1)
    (has : as.length = n * u.params.chunkSize) (bs : List Byte) (rest rest' : List Event) :
    { (u.beginXfer x).chunksOn x 0 n as rest' with inbox := rest, req := none }.land x n bs =
      { u.transferred x (as ++ bs) rest with seq := .run (.xfer x n) } := by
  have ho : x.outgoing (u.beginXfer x) = x.outgoing u := outgoing_congr x rfl rfl rfl rfl rfl
  have hceil : ((x.outgoing u).length + u.params.chunkSize - 1) / u.params.chunkSize = n + 1 := by
    simpa [chunks] using hn
  have hwire : ((chunks u.params.chunkSize (x.outgoing u)).map Request.bulk).reverse ++ u.wire =
      ((List.range' 1 n).map fun k =>
        Request.bulk (chunk u.params.chunkSize (x.outgoing u) k)).reverse ++
      .bulk (chunk u.params.chunkSize (x.outgoing u) 0) :: u.wire := by
    rw [chunks, hceil, List.range_eq_range', List.range'_succ]
    simp
  rw [State.transferred, ← deliver_append, Nat.zero_add, has, hwire, State.chunksOn, ho,
    Nat.zero_mul, Nat.zero_add, Nat.zero_add]
  cases x <;> rfl

/-- A whole transfer answered `ok`, chunk by chunk (R200, R201). -/
theorem steps_transfer {u : State} {x : Xfer} {got : List (List Byte)} {rest : List Event}
    (hc : 1 ≤ u.params.chunkSize) (hx : 1 ≤ x.size u) (hi : u.inbox = answersOf got ++ rest)
    (hlen : got.map List.length = (chunks u.params.chunkSize (x.outgoing u)).map List.length) :
    steps got.length (u.beginXfer x) = .next ((u.transferred x got.flatten rest).afterXfer x) := by
  have ho : x.outgoing (u.beginXfer x) = x.outgoing u := outgoing_congr x rfl rfl rfl rfl rfl
  have hsize : x.size (u.beginXfer x) = x.size u := size_congr x rfl rfl
  rw [← outgoing_length] at hx
  obtain ⟨front, last, rfl, hcount, hfull, hlast⟩ := full_but_last hc hx hlen
  obtain ⟨hmore, hend⟩ := length_of_chunks hc hcount
  rw [outgoing_length] at hmore hend
  rw [answersOf_append, List.append_assoc] at hi
  have hfront : steps front.length (u.beginXfer x) = .next ((u.beginXfer x).chunksOn x 0
      front.length front.flatten (answersOf [last] ++ rest)) := by
    refine steps_chunks rfl ?_ hi ?_ hfull
    · rw [ho]
      rfl
    · rw [hsize, Nat.zero_add]
      exact hmore
  have hlanded : step ((u.beginXfer x).chunksOn x 0 front.length front.flatten
      (answersOf [last] ++ rest)) =
      .next ((u.transferred x (front.flatten ++ last) rest).afterXfer x) := by
    rw [step_chunk_last (c := front.length) (rest := rest) rfl rfl ?_ ?_ ?_,
      land_last hcount ?_, afterXfer_seq]
    · rw [List.length_flatten, hfull, List.sum_replicate, smul_eq_mul]
    · rw [State.chunksOn, Nat.zero_add]
    · rw [Nat.zero_add, ho]
      exact hlast
    · rw [size_chunksOn, params_chunksOn, hsize]
      exact hend
  rw [List.length_append, steps_add hfront, List.length_singleton, steps_one, hlanded,
    List.flatten_append, List.flatten_singleton]

/-! ## A poll (R204) -/

/-- With time standing still, no deadline passes (R292). -/
theorem late_now (s : State) (d : Nat) : s.late s.now d = false := by
  have h : elapsed s.params.timeWidth s.now s.now = 0 := by
    have hdiv := Nat.div_add_mod s.now (2 ^ s.params.timeWidth)
    have hturn : s.now + 2 ^ s.params.timeWidth - s.now % 2 ^ s.params.timeWidth =
        2 ^ s.params.timeWidth * (s.now / 2 ^ s.params.timeWidth + 1) := by
      rw [Nat.mul_succ]
      omega
    rw [elapsed, hturn, Nat.mul_mod_right]
  rw [State.late, h]
  exact decide_eq_false (Nat.not_lt_zero d)

/-- A poll byte that does not match. -/
theorem step_poll_miss {s : State} {k : PollKind} {b : Byte} {rest : List Event}
    (hi : s.inbox = .answer (.ok [b]) :: rest) (hr : s.req = some (.bulk [Config.fill]))
    (hs : s.seq = .run (.poll k)) (hb : k.matched b = false) :
    step s = .next ({ s with inbox := rest, req := none }.pollMiss k) := by
  have misses (hw : fetchWire { s with inbox := rest } (.poll k) (.ok [b]) = none) :
      step s = .next ({ s with inbox := rest, req := none }.pollMiss k) :=
    step_answer hi hr hs (by simp [ownMove, hs]) rfl hw
  cases k with
  | r1 w =>
    have h7 : b.getLsbD 7 = true := by simpa [PollKind.matched] using hb
    refine misses ?_
    rw [fetchWire, decode, decodeR1, if_pos]
    · rfl
    · rw [extract_bit, h7]
      decide
  | token =>
    have hne : b ≠ Config.startToken := by simpa [PollKind.matched] using hb
    refine misses ?_
    rw [fetchWire, decode, decodeDataStart, if_neg hne]
    rfl
  | wbusy =>
    obtain rfl : b = 0x00#8 := by simpa [PollKind.matched] using hb
    rw [step_wire (i := .writeStatus 0x00#8) hi hr hs rfl rfl]
    simp only [exec, execWriteStatus, hs, if_true]

theorem pollMiss_in_time {s : State} (ht : s.t0 = s.now) (k : PollKind) :
    s.pollMiss k = s.beginPoll k := by
  rw [State.pollMiss, ht, late_now]
  rfl

/-- Poll bytes that do not match are skipped, one request each, while time stands still. -/
theorem steps_poll_skips {u : State} {k : PollKind} {bs : List Byte} {rest : List Event}
    (ht : u.t0 = u.now) (hi : u.inbox = answersOf (bs.map fun b => [b]) ++ rest)
    (hb : ∀ b ∈ bs, k.matched b = false) :
    steps bs.length (u.beginPoll k) = .next ({ u with
      inbox := rest,
      wire := List.replicate bs.length (Request.bulk [Config.fill]) ++ u.wire }.beginPoll k) := by
  induction bs generalizing u with
  | nil =>
    obtain rfl : u.inbox = rest := hi
    rfl
  | cons b bs ih =>
    let v : State := { u with
      inbox := answersOf (bs.map fun b => [b]) ++ rest, wire := .bulk [Config.fill] :: u.wire }
    have hstep : step (u.beginPoll k) = .next (v.beginPoll k) := by
      rw [step_poll_miss (s := u.beginPoll k) hi rfl rfl (hb b (by simp)), pollMiss_in_time]
      · rfl
      · exact ht
    have hwire : List.replicate (bs.length + 1) (Request.bulk [Config.fill]) ++ u.wire =
        List.replicate bs.length (.bulk [Config.fill]) ++ v.wire := by
      rw [List.replicate_succ', List.append_assoc]
      rfl
    rw [List.length_cons, hwire, Nat.add_comm, steps_add ((steps_one _).trans hstep),
      ih (u := v) ht rfl fun b hbs => hb b (List.mem_cons_of_mem _ hbs)]

/-! ## A command exchange (R171) -/

/-- INIT's own ACMD41 counts, and no other command does (R29). -/
theorem frameCount_buildFrame (s : State) (w : Cmd) (n : Word) :
    frameCount (decodeFrameFields (w.idx s) (w.arg s) (frameCrc (w.idx s) (w.arg s)))
      (.run (.issueCmd w)) n = if w = .acmd41 then saturatingSucc n else n := by
  by_cases hw : w = .acmd41
  · subst hw
    have hrow : decodeFrameFields 41#6 Config.acmd41Arg (frameCrc 41#6 Config.acmd41Arg) =
        .acmd41 := by decide +kernel
    rw [if_pos rfl, Cmd.idx, Cmd.arg, hrow]
    rfl
  · rw [if_neg hw]
    exact if_neg fun h => hw (by simpa using h.2)

/-- The frame that BuildFrame put in FRAME is sent (R170, R171). -/
theorem step_builtFrame {s : State} {w : Cmd} (hu : s.undisturbed = true)
    (hs : s.seq = .run (.issueCmd w)) (hf : s.frame = buildFrame (w.idx s) (w.arg s)) :
    step s = .next ({ s with
      acmd41cnt := if w = Cmd.acmd41 then saturatingSucc s.acmd41cnt else s.acmd41cnt }.openCommand
      w s.frame) := by
  have hd : decode .cmdFrame s.frame.toList = .ok (decodeFrameFields (w.idx s) (w.arg s)
      (frameCrc (w.idx s) (w.arg s))) := by rw [hf, buildFrame, decode_frameBytes]
  have he := (encodingADecodedWireStringGivesItBack .cmdFrame _ _ (by decide) hd).1
  rw [step_frame hu hs hd, exec_frameRow_sends (decodeFrameFields_format _ _ _) he.symm hs, hs,
    frameCount_buildFrame]

/-- The R1 byte ends its poll (R172). -/
theorem step_r1 {s : State} {w : Cmd} {b : Byte} {rest : List Event}
    (hi : s.inbox = .answer (.ok [b]) :: rest) (hr : s.req = some (.bulk [Config.fill]))
    (hs : s.seq = .run (.poll (.r1 w))) (hb : b.getLsbD 7 = false) :
    step s = .next ({ s with inbox := rest, req := none }.storeR1 w b) := by
  have h7 : b.extractLsb' 7 1 = 0#1 := by
    rw [extract_bit, hb]
    rfl
  have hd : decode .r1 [b] = .ok (.r1 (b.extractLsb' 1 6) (b.extractLsb' 0 1)) :=
    if_neg (not_not.2 h7)
  rw [step_wire hi hr hs rfl (congrArg Except.toOption hd), exec_r1_at, r1Byte_fields h7]
  exact hs

/-- R1 and the response bytes after it are read, and the exchange is about to close (R171 steps 4 to 6). -/
theorem storeR1_reaches {v : State} {w : Cmd} {r1 : Byte} {payload : List Byte} {rest : List Event}
    (hc : 1 ≤ v.params.chunkSize) (hp : payload.length = w.len v - 1)
    (hi : v.inbox = answersOf (chunks v.params.chunkSize payload) ++ rest) :
    Reaches (v.storeR1 w r1) ({ v with
      resp := putAt v.resp 0 (r1 :: payload), inbox := rest,
      wire := ((chunks v.params.chunkSize (List.replicate payload.length Config.fill)).map
        Request.bulk).reverse ++ v.wire }.beginCsOff (.cmd w)) := by
  by_cases hlen : w.len v ≤ 1
  · obtain rfl : payload = [] := List.length_eq_zero_iff.1 (by omega)
    rw [chunks_nil hc] at hi
    obtain rfl : v.inbox = rest := hi
    refine ⟨0, ?_⟩
    rw [storeR1_closing hlen, putAt_zero_one, List.length_nil, List.replicate_zero, chunks_nil hc]
    rfl
  · let u : State := { v with resp := v.resp.set 0 r1 }
    have hlen' : w.len u = w.len v := len_congr w rfl rfl
    have ho : (Xfer.rest w).outgoing u = List.replicate payload.length Config.fill := by
      rw [Xfer.outgoing, hlen', hp]
    have hrun := steps_transfer (u := u) (x := .rest w) hc (by rw [Xfer.size, hlen']; omega) hi
      (chunks_map_length (by rw [ho, List.length_replicate]))
    refine ⟨_, (storeR1_going_on (Nat.not_le.1 hlen) r1 ▸ hrun).trans ?_⟩
    rw [chunks_flatten hc, State.transferred, ho, ← List.singleton_append, ← putAt_append,
      putAt_zero_one]
    rfl

/-- The answers to an exchange, one step of the pseudocode after another. -/
theorem exchangeAnswers_append (size : Nat) (back before payload : List Byte) (r1 : Byte)
    (rest : List Event) : exchangeAnswers size back before r1 payload ++ rest =
      .answer (.ok []) :: (answersOf (chunks size back) ++
        (answersOf (before.map fun b => [b]) ++ .answer (.ok [r1]) ::
          (answersOf (chunks size payload) ++ .answer (.ok []) :: rest))) := by
  simp [exchangeAnswers, answersOf]

/-- The state once the frame of `w`, about to be sent in `u`, has been sent: RESP is all 0xFF, T0 is
sampled, chip-select is asserted and owned, and the frame's chunks are answered (R171 steps 1 to 3). -/
def State.frameSent (u : State) (w : Cmd) (rest : List Event) : State :=
  { u with
    resp := Vector.replicate 8 0xFF#8, t0 := u.now, csOwned := true, csst := .asserted, req := none,
    inbox := rest,
    acmd41cnt := if w = .acmd41 then saturatingSucc u.acmd41cnt else u.acmd41cnt,
    wire := ((chunks u.params.chunkSize u.frame.toList).map .bulk).reverse ++ .csAssert :: u.wire,
    seq := .run (.csOn (.cmd w)) }

/-- The state at the CS_DEASSERT, answered, that ends the exchange of `w` about to be opened in `u`: RESP
holds R1, the payload and 0xFF after them, and the requests are those of R109. -/
def State.exchanged (u : State) (w : Cmd) (polls : Nat) (r1 : Byte) (payload : List Byte)
    (rest : List Event) : State :=
  { u.frameSent w rest with
    resp := putAt (Vector.replicate 8 0xFF#8) 0 (r1 :: payload), csOwned := false,
    csst := .deasserted,
    wire := (exchangeRequests u.params.chunkSize u.frame polls payload.length).reverse ++ u.wire,
    seq := .run (.csOff (.cmd w)) }

section
variable {u : State} {w : Cmd} {rest : List Event}

/-- A frame is sent, up to the R1 poll. -/
theorem frameSent_reaches {back : List Byte} (hc : 1 ≤ u.params.chunkSize)
    (hs : u.seq = .run (.issueCmd w)) (hf : u.frame = buildFrame (w.idx u) (w.arg u))
    (hback : back.length = 6)
    (hi : u.inbox = .answer (.ok []) :: (answersOf (chunks u.params.chunkSize back) ++ rest)) :
    Reaches u ((u.frameSent w rest).beginPoll (.r1 w)) := by
  let opened : State := { u with
    acmd41cnt := if w = Cmd.acmd41 then saturatingSucc u.acmd41cnt else u.acmd41cnt }.openCommand w
      u.frame
  let v : State := { opened with
    inbox := answersOf (chunks u.params.chunkSize back) ++ rest, req := none }.csAssertAnswered true
  have hopen : step u = .next opened :=
    step_builtFrame (by simp [State.undisturbed, hi, Event.landsFirst]) hs hf
  have hcs : step opened = .next (v.beginXfer (.frame w)) := step_csOn_ok (b := .cmd w) hi rfl rfl
  have hsent := steps_transfer (u := v) (x := .frame w) (rest := rest) hc (by simp [Xfer.size]) rfl
    (chunks_map_length (hback.trans (outgoing_length (.frame w) v).symm))
  exact ((Reaches.of_step hopen).trans (.of_step hcs)).trans ⟨_, hsent⟩

/-- The R1 poll and the rest of the response, up to the CS_DEASSERT (R171 steps 4 to 6). -/
theorem response_reaches {before payload : List Byte} {r1 : Byte} (hc : 1 ≤ u.params.chunkSize)
    (ht : u.t0 = u.now) (hbefore : ∀ b ∈ before, b.getLsbD 7 = true) (hr1 : r1.getLsbD 7 = false)
    (hp : payload.length = w.len u - 1)
    (hi : u.inbox = answersOf (before.map fun b => [b]) ++ .answer (.ok [r1]) ::
      (answersOf (chunks u.params.chunkSize payload) ++ rest)) :
    Reaches (u.beginPoll (.r1 w)) ({ u with
      resp := putAt u.resp 0 (r1 :: payload), inbox := rest,
      wire := ((chunks u.params.chunkSize (List.replicate payload.length Config.fill)).map
        Request.bulk).reverse ++
        List.replicate (before.length + 1) (Request.bulk [Config.fill]) ++ u.wire }.beginCsOff
      (.cmd w)) := by
  let v : State := { u with
    inbox := .answer (.ok [r1]) :: (answersOf (chunks u.params.chunkSize payload) ++ rest),
    wire := List.replicate before.length (Request.bulk [Config.fill]) ++ u.wire }.beginPoll (.r1 w)
  let m : State := { v with
    inbox := answersOf (chunks u.params.chunkSize payload) ++ rest, req := none }
  have hskip : steps before.length (u.beginPoll (.r1 w)) = .next v :=
    steps_poll_skips (k := .r1 w) ht hi fun b hb => by simp [PollKind.matched, hbefore b hb]
  have hstore : step v = .next (m.storeR1 w r1) := step_r1 rfl rfl rfl hr1
  have hlen : w.len m = w.len u := len_congr w rfl rfl
  have hrest := storeR1_reaches (v := m) (w := w) (r1 := r1) hc (hp.trans (by rw [hlen])) rfl
  refine (Reaches.trans ⟨_, hskip⟩ (.of_step hstore)).trans ?_
  rw [List.replicate_succ, List.append_assoc, List.cons_append]
  simp only [State.beginCsOff, State.issue, State.goto] at hrest ⊢
  exact hrest

/-- A whole command exchange against a transport that answers `ok` while time stands still: from the frame
about to be sent to what follows the exchange (R171, R109). -/
theorem exchange_reaches {back before payload : List Byte} {r1 : Byte}
    (hc : 1 ≤ u.params.chunkSize) (hs : u.seq = .run (.issueCmd w))
    (hf : u.frame = buildFrame (w.idx u) (w.arg u)) (hback : back.length = 6)
    (hbefore : ∀ b ∈ before, b.getLsbD 7 = true) (hr1 : r1.getLsbD 7 = false)
    (hp : payload.length = w.len u - 1)
    (hi : u.inbox = exchangeAnswers u.params.chunkSize back before r1 payload ++ rest) :
    Reaches u ((u.exchanged w (before.length + 1) r1 payload rest).afterCmd w) := by
  rw [exchangeAnswers_append] at hi
  have hlen (rest : List Event) : w.len (u.frameSent w rest) = w.len u := len_congr w rfl rfl
  refine ((frameSent_reaches hc hs hf hback hi).trans
    (response_reaches hc rfl hbefore hr1 (hp.trans (by rw [hlen])) rfl)).trans ?_
  refine (Reaches.of_step (step_csOff_ok (b := .cmd w) rfl rfl rfl)).trans ⟨0, ?_⟩
  have hwire (size n : Nat) (f : Vector Byte 6) (wire : List Request) :
      (exchangeRequests size f (before.length + 1) n).reverse ++ wire =
      .csDeassert :: (((chunks size (List.replicate n Config.fill)).map Request.bulk).reverse ++
        List.replicate (before.length + 1) (Request.bulk [Config.fill]) ++
        (((chunks size f.toList).map Request.bulk).reverse ++ .csAssert :: wire)) := by
    simp [exchangeRequests]
  rw [State.exchanged, hwire]
  rfl

end

/-! ## SEND_CMD -/

/-- A CTRL write that starts an operation (R132). -/
theorem step_ctrlWrite {s : State} {o : Op} {v : Word} {rest : List Event} (hb : s.busy = false)
    (ho : opOfCode (v.extractLsb' 0 3) = some o) (hl : o = .sendCmd → legalLen s.respLen = true)
    (hi : s.inbox = hostWriteAt s.params 0x000 v :: rest) :
    step s = .next (({ s with inbox := rest }.latch (v.extractLsb' 0 3)).launch o) := by
  rw [step_host_ok hi (fetchHost_window (off := 0x000#10) (decodeHost_ctrl v)), exec_decodeCtrl,
    ctrlGo_starts (o := o)]
  · exact hb
  · exact ho
  · exact hl

/-- RESP as an exchange leaves it (R171, R174). -/
theorem putAt_replicate_toList {bs : List Byte} (h : bs.length ≤ 8) (b : Byte) :
    (putAt (Vector.replicate 8 b) 0 bs).toList = bs ++ List.replicate (8 - bs.length) b := by
  apply List.ext_getElem
  · simp [h]
  · intro k hk _
    have hk8 : k < 8 := by simpa using hk
    rw [Vector.getElem_toList, putAt_getElem, if_pos k.zero_le, Nat.sub_zero, List.getElem_append]
    split
    · simp [*]
    · simp [*]

/-- Settles O56: the CTRL write, the frame built, one command exchange, and the end. -/
theorem sendCmdRunsItsExchange : Obligations.SendCmdRunsItsExchange := by
  unfold Obligations.SendCmdRunsItsExchange
  intro s back before payload r1 rest hinv hb hlo hhi hback hbefore hr1 hp hi
  let v : State := { s with
    inbox := exchangeAnswers s.params.chunkSize back before r1 payload ++ rest }
  let u : State := ((v.latch 1#3).launch .sendCmd).enterCmd .user
  have hlegal : legalLen s.respLen = true := decide_eq_true ⟨hlo, hhi⟩
  have hwrite : step s = .next ((v.latch 1#3).launch .sendCmd) :=
    step_ctrlWrite (o := .sendCmd) hb (by decide) (fun _ => hlegal) hi
  have hstart : step ((v.latch 1#3).launch .sendCmd) = .next u :=
    step_start (op := .sendCmd) rfl rfl
  have hexchange : Reaches u ((u.exchanged .user (before.length + 1) r1 payload rest).afterCmd
      .user) := exchange_reaches hinv.params.1 rfl rfl hback hbefore hr1 hp rfl
  obtain ⟨k, hk⟩ := ((Reaches.of_step hwrite).trans (.of_step hstart)).trans hexchange
  refine ⟨k, _, hk, rfl, rfl, rfl, rfl, rfl, rfl, rfl, rfl, rfl, ?_, ?_⟩
  · have hlen : (r1 :: payload).length = s.respLen.toNat := by
      rw [List.length_cons]
      omega
    rw [← hlen]
    exact putAt_replicate_toList (hlen ▸ hhi) _
  · exact List.reverse_append.trans (by rw [List.reverse_reverse]; rfl)

end Sys2Proof.Machine
end

section
/-! PROOFS. The chunked transfer, the poll and the chip-select bracket (R200 to R206): the chunks of a
string rebuild it; a transfer answered `ok` sends every chunk, and one answered `fail` stops there; one
iteration of a poll, and the hang; CsOn and CsOff: O23, O24, O27, O28, O30 and O31. -/

namespace Sys2Proof.Machine

/-! ## An answer `fail` -/

theorem fetchWire_fail (s : State) (p : Point) : fetchWire s p .fail = none := by
  cases p with
  | xfer x c => cases x <;> rfl
  | poll k => cases k <;> rfl
  | _ => rfl

/-- An answer `fail` completes no wire row: it moves the sequencer on. -/
theorem step_fail {s : State} {rest : List Event} {r : Request} {p : Point}
    (hi : s.inbox = .answer .fail :: rest) (hr : s.req = some r) (hs : s.seq = .run p)
    (ho : ownMove s = none) :
    step s = .next ({ s with inbox := rest, req := none }.onAnswer p .fail) :=
  step_answer hi hr hs ho (by cases r <;> rfl) (fetchWire_fail _ _)

/-! ## The chunks of a string (R200, R201) -/

/-- A string has a chunk of number `c` exactly when that chunk starts inside it. -/
theorem lt_chunks_length {size : Nat} (hs : 1 ≤ size) (str : List Byte) (c : Nat) :
    c < (chunks size str).length ↔ c * size < str.length := by
  rw [chunks, List.length_map, List.length_range, Nat.lt_iff_add_one_le, Nat.le_div_iff_mul_le hs,
    Nat.succ_mul]
  omega

/-- `n` chunks from number `c` on. -/
theorem chunks_drop_take {size c n : Nat} {str : List Byte} (h : c + n ≤ (chunks size str).length) :
    ((chunks size str).drop c).take n = (List.range' c n).map (chunk size str) := by
  have hlen : (((chunks size str).drop c).take n).length = n := by
    rw [List.length_take, List.length_drop]
    omega
  refine List.ext_getElem (by simpa using hlen) fun k _ _ => ?_
  simp [chunks]

/-- Every chunk that another one follows is full. -/
theorem chunk_length_full {size : Nat} {str : List Byte} {k : Nat} (h : (k + 1) * size < str.length) :
    (chunk size str k).length = size := by
  rw [Nat.succ_mul] at h
  rw [chunk_length]
  omega

/-- Chunks that another one follows are all full. -/
theorem chunks_drop_take_lengths {size c n : Nat} {str : List Byte} (hs : 1 ≤ size)
    (h : c + n < (chunks size str).length) :
    (((chunks size str).drop c).take n).map List.length = List.replicate n size := by
  rw [chunks_drop_take h.le, List.map_map, List.map_eq_replicate_iff.2, List.length_range']
  intro k hk
  have hle : (k + 1) * size ≤ (c + n) * size :=
    Nat.mul_le_mul_right _ (List.mem_range'_1.1 hk).2
  exact chunk_length_full (hle.trans_lt ((lt_chunks_length hs str _).1 h))

theorem chunks_getD {size c : Nat} {str : List Byte} (h : c < (chunks size str).length) :
    (chunks size str).getD c [] = chunk size str c := by
  rw [List.getD_eq_getElem _ _ h]
  simp [chunks]

/-- Settles O27: the chunks rebuild the string, and each starts inside it. -/
theorem chunksRebuildTheString : Obligations.ChunksRebuildTheString := by
  unfold Obligations.ChunksRebuildTheString
  intro size str hs hl
  obtain ⟨n, hn⟩ : ∃ n, (chunks size str).length = n + 1 :=
    Nat.exists_eq_succ_of_ne_zero fun h => chunks_ne_nil hs hl (List.length_eq_zero_iff.1 h)
  obtain ⟨hlo, hhi⟩ := length_of_chunks hs hn
  refine ⟨chunks_flatten hs str, ?_, ?_, fun piece hp => ?_⟩
  · rw [hn, Nat.mul_comm]
    exact hlo
  · rw [hn, Nat.mul_comm]
    exact hhi
  · obtain ⟨c, hc, rfl⟩ := List.mem_map.1 hp
    refine chunk_bounds hs ((lt_chunks_length hs str c).1 ?_)
    simpa [chunks] using hc

/-! ## A failing chunk (R205, R252, R286) -/

section
variable {s : State} {x : Xfer} {c : Nat}

/-- RESP after a byte string is stored at RESP[i ..], by what lies in it. -/
theorem putAt_getElem_ite (v : Vector Byte 8) (i : Nat) (bs : List Byte) {k : Nat} (hk : k < 8) :
    (putAt v i bs)[k] = if i ≤ k ∧ k < i + bs.length then bs.getD (k - i) 0#8 else v[k] := by
  rw [putAt_getElem]
  by_cases hlo : i ≤ k
  · by_cases hhi : k < i + bs.length
    · have hin : k - i < bs.length := by omega
      rw [if_pos hlo, if_pos ⟨hlo, hhi⟩, List.getElem?_eq_getElem hin, List.getD_eq_getElem _ _ hin]
      rfl
    · rw [if_pos hlo, if_neg fun h => hhi h.2, List.getElem?_eq_none (by omega)]
      rfl
  · rw [if_neg hlo, if_neg fun h => hlo h.1]
    rfl

/-- A lost chunk of a response leaves every byte of RESP but its own. -/
theorem lose_resp {k : Fin 8}
    (h : ∀ w, x = .rest w → k.val < 1 + c * s.params.chunkSize ∨
      1 + (c + 1) * s.params.chunkSize ≤ k.val ∨ w.len s ≤ k.val) :
    (s.lose x c).resp[k] = s.resp[k] := by
  cases x with
  | rest w =>
    have hout := h w rfl
    rw [Nat.succ_mul] at hout
    have hkept : (putAt s.resp (1 + c * s.params.chunkSize) (freeBytes s.draws
        (min s.params.chunkSize (w.len s - 1 - c * s.params.chunkSize))))[k.val] =
        s.resp[k.val] := by
      rw [putAt_getElem_ite, freeBytes_length, if_neg]
      omega
    exact hkept
  | _ => rfl

/-- A lost chunk of a read block leaves every byte of DATA but its own. -/
theorem lose_dataByte {j : Nat}
    (h : x = .block → j < c * s.params.chunkSize ∨ (c + 1) * s.params.chunkSize ≤ j ∨ 512 ≤ j) :
    (s.lose x c).dataByte j = s.dataByte j := by
  cases x with
  | block =>
    have hout := h rfl
    rw [Nat.succ_mul] at hout
    have hkept : (s.putData (c * s.params.chunkSize) (freeBytes s.draws
        (min s.params.chunkSize (512 - c * s.params.chunkSize)))).dataByte j = s.dataByte j := by
      rw [putData_dataByte, freeBytes_length, if_neg]
      omega
    exact hkept
  | _ => rfl

/-- What a lost chunk leaves, field by field. -/
theorem lose_eq (s : State) (x : Xfer) (c : Nat) :
    s.lose x c = { s with
      resp := (s.lose x c).resp, data := (s.lose x c).data, draws := (s.lose x c).draws } := by
  obtain ⟨resp, data, draws, hlose⟩ := lose_keeps s x c
  rw [hlose]

theorem lose_dataEpoch (s : State) (x : Xfer) (c : Nat) :
    (s.lose x c).dataEpoch = s.dataEpoch := by
  rw [lose_eq]

end

/-- Settles O30: the failure path from the lost chunk, and what a lost chunk leaves. -/
theorem failingChunkStopsTheTransfer : Obligations.FailingChunkStopsTheTransfer := by
  unfold Obligations.FailingChunkStopsTheTransfer
  intro s x c str rest hs hr hi
  let v : State := { s with inbox := rest, req := none }
  have hv : v.lose x c = _ := lose_eq v x c
  have hstep : step s = .next ((v.lose x c).raise .xferFail) :=
    step_fail hi hr hs (by simp [ownMove, hs])
  refine ⟨(v.lose x c).resp, (v.lose x c).data, (v.lose x c).draws, fun ho => ?_, fun ho => ?_,
    fun k hk => ?_, fun j hj => ?_⟩
  · rw [hstep, raise_owned (p := .xfer x c) (by rw [hv]; exact hs) (by rw [hv]; exact ho), hv]
    rfl
  · rw [hstep, raise_not_owned (by rw [hv]; exact ho), hv, ho]
    rfl
  · refine lose_resp (s := v) fun w hw => ?_
    have hlen : w.len v = w.len s := len_congr w rfl rfl
    rw [hlen]
    exact hk w hw
  · have hread := lose_dataByte (s := v) hj
    rwa [State.dataByte, lose_dataEpoch] at hread

/-! ## A transfer answered `ok`, and one that fails on the way (R200, R201) -/

/-- Where a state differs from `s` in RESP and DATA as `deliver` says, the bytes have landed. -/
theorem landedFrom_of_deliver {s u : State} {x : Xfer} {i : Nat} {bs : List Byte}
    (hr : u.resp = (s.deliver x i bs).resp) (hd : u.data = (s.deliver x i bs).data)
    (he : u.dataEpoch = s.dataEpoch) : landedFrom s u x i bs := by
  refine ⟨fun k => ?_, fun j => ?_⟩
  · have hresp : u.resp[k.val] = (s.deliver x i bs).resp[k.val] := by rw [hr]
    refine hresp.trans ?_
    cases x with
    | rest w =>
      refine (putAt_getElem_ite _ _ _ k.isLt).trans ?_
      rw [Nat.sub_add_eq]
      rfl
    | _ => rfl
  · have hdata : u.dataByte j = (s.deliver x i bs).dataByte j :=
      dataByte_congr hd (he.trans (by cases x <;> rfl)) j
    refine hdata.trans ?_
    cases x with
    | block => exact putData_dataByte s i j bs
    | _ => rfl

section
variable {s : State} {x : Xfer} {c : Nat}

/-- The bytes of a chunk land behind those of the chunks before it. -/
theorem land_chunksOn {n : Nat} {as : List Byte} (has : as.length = n * s.params.chunkSize)
    (bs : List Byte) (rest rest' : List Event) :
    { s.chunksOn x c n as rest' with inbox := rest, req := none }.land x (c + n) bs =
      { s.chunksOn x c n (as ++ bs) rest with req := none } := by
  have hat : (c + n) * s.params.chunkSize = c * s.params.chunkSize + as.length := by
    rw [has, Nat.add_mul]
  have hp := params_chunksOn s x c n as rest'
  rw [land_eq_deliver, hp, hat, State.chunksOn, State.chunksOn, ← deliver_append]
  cases x <;> rfl

/-- In a state with the invariant, the request of a transfer is its chunk. -/
theorem State.Inv.xfer_request (h : s.Inv) (hs : s.seq = .run (.xfer x c)) :
    s.req = some (.bulk (chunk s.params.chunkSize (x.outgoing s) c)) := by
  rw [h.request, hs]
  rfl

/-- Chunks answered `ok` from chunk `c` on, in a state with the invariant. -/
theorem steps_chunks_of_inv {got : List (List Byte)} {rest : List Event} (h : s.Inv)
    (hs : s.seq = .run (.xfer x c)) (hi : s.inbox = answersOf got ++ rest)
    (hmore : c + got.length < (chunks s.params.chunkSize (x.outgoing s)).length)
    (hlen : got.map List.length =
      (((chunks s.params.chunkSize (x.outgoing s)).drop c).take got.length).map List.length) :
    steps got.length s = .next (s.chunksOn x c got.length got.flatten rest) := by
  refine steps_chunks hs (h.xfer_request hs) hi ?_ ?_
  · rw [← outgoing_length]
    exact (lt_chunks_length h.params.1 _ _).1 hmore
  · rw [hlen, chunks_drop_take_lengths h.params.1 hmore]

/-- The chunks of a whole transfer answered `ok`, in a state with the invariant: those before the last, and
then the last, after which the pseudocode goes on. -/
theorem steps_all_chunks {got : List (List Byte)} {rest : List Event} (h : s.Inv)
    (hs : s.seq = .run (.xfer x 0)) (hi : s.inbox = answersOf got ++ rest)
    (hlen : got.map List.length = (chunks s.params.chunkSize (x.outgoing s)).map List.length) :
    ∃ n, got.length = n + 1 ∧ (chunks s.params.chunkSize (x.outgoing s)).length = n + 1 ∧
      steps got.length s =
        .next ({ s.chunksOn x 0 n got.flatten rest with req := none }.afterXfer x) := by
  have hsize := h.params.1
  have hx : 1 ≤ (x.outgoing s).length := by
    have hin := h.inRange x 0 hs
    rw [outgoing_length]
    omega
  obtain ⟨front, last, rfl, hcount, hfull, hlast⟩ := full_but_last hsize hx hlen
  obtain ⟨hmore, hend⟩ := length_of_chunks hsize hcount
  rw [outgoing_length] at hmore hend
  rw [answersOf_append, List.append_assoc] at hi
  have hfront : steps front.length s = .next (s.chunksOn x 0 front.length front.flatten
      (answersOf [last] ++ rest)) :=
    steps_chunks hs (h.xfer_request hs) hi (by rwa [Nat.zero_add]) hfull
  have hlanded : step (s.chunksOn x 0 front.length front.flatten (answersOf [last] ++ rest)) =
      .next ({ s.chunksOn x 0 front.length (front.flatten ++ last) rest with
        req := none }.afterXfer x) := by
    rw [step_chunk_last (c := 0 + front.length) (rest := rest) rfl rfl rfl ?_ ?_, land_chunksOn]
    · rw [List.length_flatten, hfull, List.sum_replicate, smul_eq_mul]
    · rw [Nat.zero_add]
      exact hlast
    · rw [size_chunksOn, params_chunksOn, Nat.zero_add]
      exact hend
  refine ⟨front.length, by simp, hcount, ?_⟩
  rw [List.length_append, List.length_singleton, steps_add hfront, steps_one, hlanded,
    List.flatten_append, List.flatten_singleton]

/-- The requests of `chunksOn`, as chunks of the string of the transfer. -/
theorem chunksOn_wire {n : Nat} (hn : c + n < (chunks s.params.chunkSize (x.outgoing s)).length)
    (bs : List Byte) (rest : List Event) :
    (s.chunksOn x c n bs rest).wire =
      ((((chunks s.params.chunkSize (x.outgoing s)).drop (c + 1)).take n).map
        Request.bulk).reverse ++ s.wire := by
  rw [chunks_drop_take (by omega), List.map_map]
  rfl

/-- What `chunksOn` changes. -/
theorem chunksOn_eq (s : State) (x : Xfer) (c n : Nat) (bs : List Byte) (rest : List Event) :
    s.chunksOn x c n bs rest = { s with
      inbox := rest, req := some (.bulk (chunk s.params.chunkSize (x.outgoing s) (c + n))),
      resp := (s.deliver x (c * s.params.chunkSize) bs).resp,
      data := (s.deliver x (c * s.params.chunkSize) bs).data,
      wire := (s.chunksOn x c n bs rest).wire, seq := .run (.xfer x (c + n)) } := by
  cases x <;> rfl

end

/-- Settles O28: the chunks up to one with more to come, the whole transfer, and the chunks up to one that
fails as O30 says. -/
theorem transferSendsEveryChunk : Obligations.TransferSendsEveryChunk := by
  unfold Obligations.TransferSendsEveryChunk
  refine ⟨?_, ?_, ?_⟩
  · intro s x c got rest hinv hs hi size pieces hmore hlen
    refine ⟨_, _, ?_, landedFrom_of_deliver rfl rfl rfl⟩
    rw [steps_chunks_of_inv hinv hs hi hmore hlen, chunksOn_eq, chunksOn_wire hmore, chunks_getD hmore]
  · intro s x got rest hinv hs hi pieces hlen
    obtain ⟨n, hn, hcount, hsteps⟩ := steps_all_chunks hinv hs hi hlen
    have hlater : (pieces.drop (0 + 1)).take n = pieces.drop 1 :=
      List.take_of_length_le (by rw [List.length_drop, hcount]; omega)
    refine ⟨_, _, ?_, landedFrom_of_deliver (i := 0) rfl rfl rfl⟩
    rw [hsteps, chunksOn_eq, chunksOn_wire (by rw [hcount]; omega), hlater, hn, Nat.zero_mul,
      Nat.zero_add]
    rfl
  · intro s x c got rest hinv hs hi size pieces hmore hlen
    let v : State := s.chunksOn x c got.length got.flatten (.answer .fail :: rest)
    have hv : v = _ := chunksOn_eq s x c got.length got.flatten (.answer .fail :: rest)
    have hwire : v.wire = _ := chunksOn_wire hmore got.flatten (.answer .fail :: rest)
    have hp : v.params = s.params := by rw [hv]
    have hepoch : v.dataEpoch = s.dataEpoch := by rw [hv]
    obtain ⟨resp, data, draws, howned, hunowned, hresp, hdata⟩ :=
      failingChunkStopsTheTransfer v x (c + got.length) _ rest rfl rfl rfl
    refine ⟨v, resp, data, draws, landedFrom_of_deliver rfl rfl hepoch, ?_, fun k hk => ?_,
      fun j hj => ?_⟩
    · rw [steps_add (steps_chunks_of_inv hinv hs hi hmore hlen), steps_one, ← hwire]
      cases ho : s.csOwned with
      | true => rw [howned (by rw [hv]; exact ho), if_pos rfl, hv]
      | false => rw [hunowned (by rw [hv]; exact ho), if_neg Bool.false_ne_true, hv, ho]
    · refine hresp k fun w hw => ?_
      have hl : w.len v = w.len s := len_congr w hp (by rw [hv])
      rw [hp, hl]
      exact hk w hw
    · rw [hp] at hdata
      refine Eq.trans (dataByte_congr ?_ ?_ j) (hdata j hj)
      · rfl
      · exact hepoch.symm

/-! ## One iteration of a poll (R204) -/

/-- The row that the byte a poll waits for completes (R172, R253, R258). -/
def PollKind.row : PollKind → Byte → Instr
  | .r1 _, b => .r1 (b.extractLsb' 1 6) (b.extractLsb' 0 1)
  | .token, _ => .dataStart
  | .wbusy, b => .writeStatus b

theorem fetchWire_matched {s : State} {k : PollKind} {b : Byte} (hb : k.matched b = true) :
    fetchWire s (.poll k) (.ok [b]) = some (k.row b) := by
  cases k with
  | r1 w =>
    have h7 : b.getLsbD 7 = false := by simpa [PollKind.matched] using hb
    rw [fetchWire, decode, decodeR1, if_neg]
    · rfl
    · rw [extract_bit, h7]
      decide
  | token =>
    have heq : b = Config.startToken := by simpa [PollKind.matched] using hb
    rw [fetchWire, decode, decodeDataStart, if_pos heq]
    rfl
  | wbusy => rfl

theorem deadline_congr {s t : State} (k : PollKind) (hp : t.params = s.params)
    (hl : t.lIdx = s.lIdx) : k.deadline t = k.deadline s := by
  cases k with
  | r1 w => simp only [PollKind.deadline, idx_congr w hl, hp]
  | token | wbusy => rw [PollKind.deadline, PollKind.deadline, hp]

section
variable {s : State} {k : PollKind} {b : Byte} {rest : List Event}

/-- A poll byte that matches runs its row, whatever the time. -/
theorem step_poll_match (hi : s.inbox = .answer (.ok [b]) :: rest)
    (hr : s.req = some (.bulk [Config.fill])) (hs : s.seq = .run (.poll k))
    (hb : k.matched b = true) : step s = exec (k.row b) { s with inbox := rest, req := none } :=
  step_wire hi hr hs rfl (fetchWire_matched hb)

/-- A poll byte that does not match, past the deadline, raises the poll's own timeout. -/
theorem step_poll_late (hi : s.inbox = .answer (.ok [b]) :: rest)
    (hr : s.req = some (.bulk [Config.fill])) (hs : s.seq = .run (.poll k))
    (hb : k.matched b = false) (ht : s.late s.t0 (k.deadline s) = true) :
    step s = .next ({ s with inbox := rest, req := none }.raise k.timeoutDetail) := by
  have hd : k.deadline { s with inbox := rest, req := none } = k.deadline s :=
    deadline_congr k rfl rfl
  rw [step_poll_miss hi hr hs hb, State.pollMiss, hd]
  exact congrArg _ (if_pos ht)

/-- A poll byte that does not match, in time, asks for the next byte. -/
theorem step_poll_again (hi : s.inbox = .answer (.ok [b]) :: rest)
    (hr : s.req = some (.bulk [Config.fill])) (hs : s.seq = .run (.poll k))
    (hb : k.matched b = false) (ht : s.late s.t0 (k.deadline s) = false) :
    step s = .next { s with inbox := rest, wire := .bulk [Config.fill] :: s.wire } := by
  have hd : k.deadline { s with inbox := rest, req := none } = k.deadline s :=
    deadline_congr k rfl rfl
  have hmiss : step s = .next ({ s with inbox := rest, req := none }.beginPoll k) := by
    rw [step_poll_miss hi hr hs hb, State.pollMiss, hd]
    exact congrArg _ (if_neg (Bool.eq_false_iff.1 ht))
  rw [hmiss, hr, hs]
  rfl

end

/-! ## The hang (R11 (d), R291) -/

/-- What every step keeps, and no stop ends, holds after any number of steps. -/
theorem steps_keep {P : State → Prop} (hP : ∀ t, P t → ∃ u, step t = .next u ∧ P u) {s : State}
    (hs : P s) (n : Nat) : ∃ t, steps n s = .next t ∧ P t := by
  induction n generalizing s with
  | zero => exact ⟨s, rfl, hs⟩
  | succ n ih =>
    obtain ⟨u, hu, hPu⟩ := hP s hs
    rw [Nat.add_comm, steps_add ((steps_one s).trans hu)]
    exact ih hPu

/-- A state of the hang of `s`: only requests have been issued, and the answer of `cycle` may be next. -/
def Hangs (s t : State) : Prop :=
  ∃ wire inbox, (inbox = [] ∨ inbox = s.cycle) ∧ t = { s with wire := wire, inbox := inbox }

/-- With time standing still, a byte that comes again and again and does not match keeps the hang. -/
theorem step_hangs {s t : State} {k : PollKind} {b : Byte}
    (hr : s.req = some (.bulk [Config.fill])) (hs : s.seq = .run (.poll k))
    (hc : s.cycle = [.answer (.ok [b])]) (hb : k.matched b = false)
    (ht : s.late s.t0 (k.deadline s) = false) (h : Hangs s t) :
    ∃ u, step t = .next u ∧ Hangs s u := by
  obtain ⟨wire, inbox, hi, rfl⟩ := h
  rcases hi with rfl | rfl
  · exact ⟨_, step_again rfl (by simp [ownMove, hs]) hc, _, _, .inr rfl, by rw [hc]⟩
  · have hd : k.deadline { s with wire := wire, inbox := s.cycle } = k.deadline s :=
      deadline_congr k rfl rfl
    exact ⟨_, step_poll_again hc hr hs hb (by rw [hd]; exact ht), _, _, .inl rfl, rfl⟩

/-- Settles O31: the transport's `fail`, the byte test, the deadline, and the hang. -/
theorem pollIteration : Obligations.PollIteration := by
  unfold Obligations.PollIteration
  intro s k rest hs hr failing answered matching deadline detail
  have hmatch : ∀ b, matching b ↔ k.matched b = true := by
    intro b
    cases k <;> simp [matching, PollKind.matched, Config.startToken]
  have hmiss : ∀ b, ¬ matching b → k.matched b = false := fun b hb =>
    Bool.eq_false_iff.2 fun h => hb ((hmatch b).2 h)
  have hdeadline : deadline = k.deadline s := by
    cases k with
    | r1 w =>
      have hidx : (w.idx s).toNat < 64 := (w.idx s).isLt
      simp [deadline, PollKind.deadline, hidx]
    | token | wbusy => rfl
  have hdetail : detail = k.timeoutDetail := by cases k <;> rfl
  have hraise : ∀ d, s.csOwned = true → answered.raise d = failing d := fun d ho => by
    rw [raise_owned (p := .poll k)]
    · rfl
    · exact hs
    · exact ho
  have hlate : s.late s.t0 (k.deadline s) =
      decide (deadline < elapsed s.params.timeWidth s.now s.t0) := by
    rw [hdeadline]
    rfl
  refine ⟨fun hi ho => ?_, fun b hi => ⟨fun hb => ?_, fun hb hl ho => ?_, fun hb hl => ?_⟩,
    fun b hi hc hb hl n => ?_⟩
  · rw [step_fail hi hr hs (by simp [ownMove, hs]), ← hraise _ ho]
    rfl
  · rw [step_poll_match hi hr hs ((hmatch b).1 hb)]
    cases k <;> rfl
  · rw [step_poll_late hi hr hs (hmiss b hb) (hlate.trans (decide_eq_true hl)), hdetail,
      ← hraise _ ho]
  · rw [step_poll_again hi hr hs (hmiss b hb) (hlate.trans (decide_eq_false hl.not_gt)), hr]
    rfl
  · have hself : Hangs s s := ⟨s.wire, [], .inl rfl, by rw [← hi]⟩
    have hintime := hlate.trans (decide_eq_false hl.not_gt)
    obtain ⟨t, ht, wire, inbox, -, rfl⟩ :=
      steps_keep (fun _ => step_hangs hr hs hc (hmiss b hb) hintime) hself n
    exact ⟨_, ht, rfl, rfl, rfl, rfl⟩

/-! ## The chip-select bracket (R202, R203) -/

/-- Settles O23: the answer to CS_ASSERT, by the exchange it opens. -/
theorem csAssertOpensTheExchange : Obligations.CsAssertOpensTheExchange := by
  unfold Obligations.CsAssertOpensTheExchange
  refine ⟨fun _ _ => rfl, fun s b rest hs hr => ⟨fun hi => ?_, fun hi ho => ?_⟩⟩
  · rw [step_csOn_ok hi hr hs]
    cases b with
    | cmd w => rw [← chunk_zero]; rfl
    | read | write => rfl
  · rw [step_fail hi hr hs (by simp [ownMove, hs]), State.onAnswer, raise_owned (p := .csOn b)]
    · rfl
    · exact hs
    · exact ho

/-- Settles O24: no move after an `ok` writes CSST, and after a `fail` chip-select is no longer owned. -/
theorem csDeassertClosesTheExchange : Obligations.CsDeassertClosesTheExchange := by
  unfold Obligations.CsDeassertClosesTheExchange
  refine ⟨fun _ _ => rfl, fun s b rest hs hr => ⟨fun hi => ?_, fun hi ho => ?_⟩⟩
  · refine ⟨_, step_csOff_ok hi hr hs, ?_⟩
    obtain ⟨i, n, m, -, hclose⟩ := afterCsOff_continues
      ({ s with inbox := rest, req := none }.csDeassertAnswered true) b
    rw [hclose.keeps]
    rfl
  · rw [step_fail hi hr hs (by simp [ownMove, hs]), State.onAnswer, raise_not_owned]
    · rfl
    · exact ho

end Sys2Proof.Machine
end

section
/-! PROOFS. INIT (R220 to R230): where it goes when a command exchange has closed, and the whole run
with the number of its requests: O26 and O57. -/

namespace Sys2Proof.Machine

/-! ## The transition table (R229) -/

/-- Settles O26: the answer closes the exchange and `afterCmd` is the table; frames are R104's. -/
theorem initTransitionTable : Obligations.InitTransitionTable := by
  unfold Obligations.InitTransitionTable
  intro s w rest hs hr ho hi closed failed cmd55
  obtain ⟨-, henter, hframe8, -, -, -, hframe55, hframe41, -⟩ := buildFrameBytes
  have fails (d : Detail) : closed.raise d = failed d.kind d :=
    (raise_not_owned (s := closed) ho d).trans (endOp_not_owned (s := closed) ho d)
  have builds55 (t : State) : t.enterCmd .cmd55 = cmd55 t := by
    rw [henter, Cmd.idx, Cmd.arg, Config.cmd55Arg, hframe55]
  have hstep : step s = .next (closed.afterCmd w) := step_csOff_ok (b := .cmd w) hi hr hs
  rw [hstep]
  refine ⟨?_, ?_, ?_, ?_⟩
  · rintro rfl
    rw [State.afterCmd, fails, henter, Cmd.idx, Cmd.arg, Config.cmd8Arg, hframe8]
    rfl
  · rintro rfl
    rw [State.afterCmd, fails, fails, builds55]
    rfl
  · rintro rfl
    rw [State.afterCmd, fails, henter, Cmd.idx, Cmd.arg, Config.acmd41Arg, hframe41]
    rfl
  · rintro rfl
    rw [State.afterCmd, fails, builds55,
      endOp_not_owned (s := { closed with initst := .ready }) ho, State.late]
    simp only [decide_eq_true_eq]
    rfl

/-! ## Where a command's answer leads (R222 to R228) -/

section
variable {t : State}

/-- CMD0 answered 0x01 is followed by CMD8 (R222). -/
theorem afterCmd_cmd0_idle (h : t.resp[0] = 0x01#8) :
    t.afterCmd .cmd0 = { t with initst := .ifcheck }.enterCmd .cmd8 := if_pos h

/-- CMD8 answered 0x01 with its check pattern is followed by the loop (R223, R224). -/
theorem afterCmd_cmd8_echoed (h : t.resp[0] = 0x01#8) (he : t.resp[4] = 0xAA#8) :
    t.afterCmd .cmd8 = { t with initst := .voltneg, t0Init := t.now }.enterCmd .cmd55 :=
  (if_neg (not_not.2 h)).trans (if_neg (not_not.2 he))

/-- CMD55 answered 0x01 is followed by ACMD41 (R225, R226). -/
theorem afterCmd_cmd55_idle (h : t.resp[0] = 0x01#8) :
    t.afterCmd .cmd55 = t.enterCmd .acmd41 := if_pos h

/-- An ACMD41 answered 0x00 ends INIT with the card READY (R227). -/
theorem afterCmd_acmd41_ready (h : t.resp[0] = 0x00#8) :
    t.afterCmd .acmd41 = { t with initst := .ready }.endOp .none := if_pos h

/-- Any other ACMD41 answer goes back to CMD55, if no time has passed in the loop (R228). -/
theorem afterCmd_acmd41_again (h : t.resp[0] ≠ 0x00#8) (ht : t.t0Init = t.now) :
    t.afterCmd .acmd41 = t.enterCmd .cmd55 := by
  refine (if_neg h).trans (if_neg ?_)
  rw [ht, late_now]
  decide

end

/-! ## One exchange of INIT, counted (R109, R230) -/

section
variable (u : State) (w : Cmd) (polls : Nat) (r1 : Byte) (payload : List Byte) (rest : List Event)

/-- RESP[0] holds R1 (R171 step 5). -/
theorem exchanged_r1 : (u.exchanged w polls r1 payload rest).resp[0] = r1 :=
  putAt_getElem _ 0 _ 0 (by decide)

/-- RESP[4] holds the last of four payload bytes (R106). -/
theorem exchanged_echo {echo : List Byte} (he : echo.length = 3) (b : Byte) :
    (u.exchanged w polls r1 (echo ++ [b]) rest).resp[4] = b := by
  refine (putAt_getElem _ 0 _ 4 (by decide)).trans ?_
  simp [he]

/-- The requests of an exchange with R1 on its first poll byte, in chunks of six bytes: CS_ASSERT,
the frame, the poll byte, the chunks of the payload, CS_DEASSERT. -/
theorem exchanged_wire_length (hc : u.params.chunkSize = 6) :
    (u.exchanged w 1 r1 payload rest).wire.length =
      u.wire.length + (4 + (payload.length + 5) / 6) := by
  simp only [State.exchanged, exchangeRequests, chunks, hc, List.length_append, List.length_reverse,
    List.length_map, List.length_range, List.length_replicate, Vector.length_toList,
    List.length_cons, List.length_nil]
  omega

end

/-- ACMD41CNT after `n` ACMD41 (R29). -/
def countAfter (n : Nat) : Word := BitVec.ofNat 32 (min n 0xFFFFFFFF)

theorem saturatingSucc_countAfter (n : Nat) :
    saturatingSucc (countAfter n) = countAfter (n + 1) := by
  rw [saturatingSucc_eq_min, countAfter, countAfter, BitVec.toNat_ofNat,
    Nat.mod_eq_of_lt (by omega)]
  congr 1
  omega

/-- FRAME holds the frame that BuildFrame has just built: entering an exchange changes no operand
of its command (R170). -/
theorem enterCmd_frame_built (s : State) (w : Cmd) :
    (s.enterCmd w).frame = buildFrame (w.idx (s.enterCmd w)) (w.arg (s.enterCmd w)) := by
  cases w <;> rfl

/-- `u` is about to send the frame of `w` in an INIT that began in `s`, with the inputs `inbox` to
come: `n` ACMD41 are counted, and `k` requests made. -/
structure AboutToSend (s : State) (w : Cmd) (n k : Nat) (inbox : List Event) (u : State) :
    Prop where
  params : u.params = s.params
  data : u.data = s.data
  seq : u.seq = .run (.issueCmd w)
  frame : u.frame = buildFrame (w.idx u) (w.arg u)
  inbox : u.inbox = inbox
  count : u.acmd41cnt = countAfter n
  requests : u.wire.length = s.wire.length + k

section
variable {s u : State} {w : Cmd} {n k : Nat} {back payload : List Byte} {r1 : Byte}
  {inbox rest : List Event}

/-- In chunks of six bytes, with R1 on the first poll byte, the command's exchange runs (R171). -/
theorem AboutToSend.exchange (hsize : s.params.chunkSize = 6) (hback : back.length = 6)
    (hr1 : r1.getLsbD 7 = false) (hp : payload.length = w.len u - 1)
    (h : AboutToSend s w n k (exchangeAnswers 6 back [] r1 payload ++ rest) u) :
    Reaches u ((u.exchanged w 1 r1 payload rest).afterCmd w) := by
  have hc : u.params.chunkSize = 6 := h.params ▸ hsize
  exact exchange_reaches (before := []) (hc ▸ by decide) h.seq h.frame hback nofun hr1 hp
    (h.inbox.trans (by rw [hc]))

theorem AboutToSend.exchanged_requests (h : AboutToSend s w n k inbox u)
    (hsize : s.params.chunkSize = 6) (r1 : Byte) (payload : List Byte) (rest : List Event) :
    (u.exchanged w 1 r1 payload rest).wire.length =
      s.wire.length + (k + (4 + (payload.length + 5) / 6)) := by
  rw [exchanged_wire_length _ _ _ _ _ (h.params ▸ hsize), h.requests, Nat.add_assoc]

theorem AboutToSend.exchanged_count (h : AboutToSend s .acmd41 n k inbox u) (polls : Nat)
    (r1 : Byte) (payload : List Byte) (rest : List Event) :
    (u.exchanged .acmd41 polls r1 payload rest).acmd41cnt = countAfter (n + 1) := by
  rw [← saturatingSucc_countAfter, ← h.count]
  rfl

end

/-! ## The CMD55/ACMD41 loop (R224 to R228) -/

/-- `u` is about to send CMD55 in the loop of an INIT that began in `s`, time standing still since
then: the requests so far are the 11 before the loop and 9 for each of the `n` ACMD41. -/
structure InInitLoop (s : State) (n : Nat) (inbox : List Event) (u : State) : Prop
    extends AboutToSend s .cmd55 n (11 + 9 * n) inbox u where
  anchor : u.t0Init = u.now

section
variable {s u : State} {n : Nat} {back ocr : List Byte} {r1 : Byte} {rest : List Event}

/-- CMD55 answered 0x01 leads to the ACMD41 of the same attempt (R225, R226). -/
theorem InInitLoop.acmd41_next (hsize : s.params.chunkSize = 6) (hback : back.length = 6)
    (h : InInitLoop s n (exchangeAnswers 6 back [] 0x01#8 [] ++ rest) u) :
    ∃ v, Reaches u v ∧ AboutToSend s .acmd41 n (15 + 9 * n) rest v ∧ v.t0Init = v.now := by
  have hrun := h.exchange hsize hback rfl rfl
  rw [afterCmd_cmd55_idle (exchanged_r1 ..)] at hrun
  have hrequests := h.exchanged_requests hsize 0x01#8 [] rest
  refine ⟨_, hrun, ⟨h.params, h.data, rfl, enterCmd_frame_built _ _, rfl, h.count,
    hrequests.trans ?_⟩, h.anchor⟩
  rw [List.length_nil]
  omega

/-- An attempt: CMD55 answered 0x01, then ACMD41 answered `r1`; `v` is about to send ACMD41. -/
theorem InInitLoop.attempt (hsize : s.params.chunkSize = 6) (hlen : s.params.acmd41RespLen = 5)
    (hback : back.length = 6) (hr1 : r1.getLsbD 7 = false) (hocr : ocr.length = 4)
    (h : InInitLoop s n (exchangeAnswers 6 back [] 0x01#8 [] ++
      (exchangeAnswers 6 back [] r1 ocr ++ rest)) u) :
    ∃ v : State, let t := v.exchanged .acmd41 1 r1 ocr rest
      Reaches u (t.afterCmd .acmd41) ∧ t.params = s.params ∧ t.data = s.data ∧ t.t0Init = t.now ∧
        t.acmd41cnt = countAfter (n + 1) ∧
        t.wire.length = s.wire.length + (11 + 9 * (n + 1)) := by
  obtain ⟨v, huv, hv, hanchor⟩ := h.acmd41_next hsize hback
  have hp : ocr.length = Cmd.acmd41.len v - 1 := by rw [hocr, Cmd.len, hv.params, hlen]
  have hrequests := hv.exchanged_requests hsize r1 ocr rest
  refine ⟨v, huv.trans (hv.exchange hsize hback hr1 hp), hv.params, hv.data, hanchor,
    hv.exchanged_count 1 r1 ocr rest, hrequests.trans ?_⟩
  rw [hocr]
  omega

/-- An attempt that finds the card not ready comes back to the loop with one more counted (R228). -/
theorem InInitLoop.not_ready (hsize : s.params.chunkSize = 6)
    (hlen : s.params.acmd41RespLen = 5) (hback : back.length = 6) (hr1 : r1.getLsbD 7 = false)
    (hne : r1 ≠ 0x00#8) (hocr : ocr.length = 4)
    (h : InInitLoop s n (exchangeAnswers 6 back [] 0x01#8 [] ++
      (exchangeAnswers 6 back [] r1 ocr ++ rest)) u) :
    ∃ v, Reaches u v ∧ InInitLoop s (n + 1) rest v := by
  obtain ⟨v, hrun, hparams, hdata, hanchor, hcount, hrequests⟩ :=
    h.attempt hsize hlen hback hr1 hocr
  rw [afterCmd_acmd41_again ((exchanged_r1 ..).trans_ne hne) hanchor] at hrun
  exact ⟨_, hrun, ⟨hparams, hdata, rfl, enterCmd_frame_built _ _, rfl, hcount, hrequests⟩, hanchor⟩

/-- Every attempt that finds the card not ready is one round of the loop. -/
theorem InInitLoop.all_not_ready {attempts : List (Byte × List Byte)}
    (hsize : s.params.chunkSize = 6) (hlen : s.params.acmd41RespLen = 5) (hback : back.length = 6)
    (hnot : ∀ a ∈ attempts, a.1.getLsbD 7 = false ∧ a.1 ≠ 0x00#8 ∧ a.2.length = 4)
    (h : InInitLoop s n (attempts.flatMap (fun a => exchangeAnswers 6 back [] 0x01#8 [] ++
      exchangeAnswers 6 back [] a.1 a.2) ++ rest) u) :
    ∃ v, Reaches u v ∧ InInitLoop s (n + attempts.length) rest v := by
  induction attempts generalizing n u with
  | nil => exact ⟨u, ⟨0, rfl⟩, h⟩
  | cons a attempts ih =>
    obtain ⟨⟨hr1, hne, hocr⟩, hothers⟩ := List.forall_mem_cons.1 hnot
    simp only [List.flatMap_cons, List.append_assoc] at h
    obtain ⟨v, huv, hv⟩ := h.not_ready hsize hlen hback hr1 hne hocr
    obtain ⟨t, hvt, ht⟩ := ih hothers hv
    refine ⟨t, huv.trans hvt, ?_⟩
    rwa [List.length_cons, Nat.add_comm attempts.length, ← Nat.add_assoc]

end

/-! ## From the CTRL write to the loop (R220 to R224) -/

section
variable {s : State} {up1 up2 back echo : List Byte} {rest : List Event}

/-- The CTRL write of INIT and its ten power-up bytes, in two chunks (R221). -/
theorem powerUp_reaches (hb : s.busy = false) (hsize : s.params.chunkSize = 6)
    (hup : s.params.nPowerup = 10) (hup1 : up1.length = 6) (hup2 : up2.length = 4)
    (hi : s.inbox = hostWriteAt s.params 0x000 2#32 :: (answersOf [up1, up2] ++ rest)) :
    ∃ u, Reaches s u ∧ AboutToSend s .cmd0 0 2 rest u := by
  let v : State := ({ s with inbox := answersOf [up1, up2] ++ rest }.latch 2#3).launch .init
  let u : State := { v with acmd41cnt := 0#32, initst := .powerup }
  have hchunks : chunks u.params.chunkSize (Xfer.powerUp.outgoing u) =
      [List.replicate 6 0xFF#8, List.replicate 4 0xFF#8] := by
    rw [Xfer.outgoing, show u.params = s.params from rfl, hsize, hup]
    decide
  have hwrite : step s = .next v := step_ctrlWrite (o := .init) hb (by decide) nofun hi
  have hstart : step v = .next (u.beginXfer .powerUp) := step_start (op := .init) rfl rfl
  have hpieces : [up1, up2].map List.length =
      (chunks u.params.chunkSize (Xfer.powerUp.outgoing u)).map List.length := by
    rw [hchunks]
    simp [hup1, hup2]
  have hbytes := steps_transfer (u := u) (rest := rest) (hsize ▸ by decide)
    (hup.symm ▸ by decide : 1 ≤ s.params.nPowerup) rfl hpieces
  refine ⟨_, ((Reaches.of_step hwrite).trans (.of_step hstart)).trans ⟨_, hbytes⟩,
    rfl, rfl, rfl, enterCmd_frame_built _ _, rfl, rfl, ?_⟩
  simp only [State.afterXfer, State.enterCmd, State.transferred, hchunks, List.length_append]
  exact Nat.add_comm 2 _

/-- INIT comes to its loop after 11 requests: two chunks, CMD0, CMD8 and its echo (R220 to R224). -/
theorem initLoop_reached (hb : s.busy = false) (hsize : s.params.chunkSize = 6)
    (hup : s.params.nPowerup = 10) (hup1 : up1.length = 6) (hup2 : up2.length = 4)
    (hback : back.length = 6) (hecho : echo.length = 3)
    (hi : s.inbox = hostWriteAt s.params 0x000 2#32 :: (answersOf [up1, up2] ++
      (exchangeAnswers 6 back [] 0x01#8 [] ++
        (exchangeAnswers 6 back [] 0x01#8 (echo ++ [0xAA#8]) ++ rest)))) :
    ∃ u, Reaches s u ∧ InInitLoop s 0 rest u := by
  obtain ⟨u, hsu, hu⟩ := powerUp_reaches hb hsize hup hup1 hup2 hi
  let answers8 := exchangeAnswers 6 back [] 0x01#8 (echo ++ [0xAA#8]) ++ rest
  let v : State :=
    { u.exchanged .cmd0 1 0x01#8 [] answers8 with initst := .ifcheck }.enterCmd .cmd8
  have hcmd0 : Reaches u v := by
    have hrun := hu.exchange hsize hback rfl rfl
    rwa [afterCmd_cmd0_idle (exchanged_r1 ..)] at hrun
  have hv : AboutToSend s .cmd8 0 6 answers8 v :=
    ⟨hu.params, hu.data, rfl, enterCmd_frame_built _ _, rfl, hu.count,
      hu.exchanged_requests hsize 0x01#8 [] answers8⟩
  have hp : (echo ++ [0xAA#8]).length = 4 := by rw [List.length_append, hecho]; rfl
  have hcmd8 := hv.exchange hsize hback rfl hp
  rw [afterCmd_cmd8_echoed (exchanged_r1 ..) (exchanged_echo _ _ _ _ _ hecho _)] at hcmd8
  have hrequests := hv.exchanged_requests hsize 0x01#8 (echo ++ [0xAA#8]) rest
  rw [hp] at hrequests
  exact ⟨_, (hsu.trans hcmd0).trans hcmd8,
    ⟨hv.params, hv.data, rfl, enterCmd_frame_built _ _, rfl, hv.count, hrequests⟩, rfl⟩

end

/-- Settles O57: power-up, CMD0 and CMD8 lead to the loop, each attempt is one round of it, and the
round that finds the card ready ends INIT. -/
theorem initTakesElevenPlusNineRequestsPerAttempt :
    Obligations.InitTakesElevenPlusNineRequestsPerAttempt := by
  unfold Obligations.InitTakesElevenPlusNineRequestsPerAttempt
  intro s attempts up1 up2 back echo ocr rest _ hb hsize hup hlen hup1 hup2 hback hecho hocr hnot
    cmd hi
  simp only [List.append_assoc] at hi
  obtain ⟨u, hsu, hu⟩ := initLoop_reached hb hsize hup hup1 hup2 hback hecho hi
  obtain ⟨v, huv, hv⟩ := hu.all_not_ready hsize hlen hback hnot
  rw [Nat.zero_add] at hv
  obtain ⟨_, hrun, -, hdata, -, hcount, hrequests⟩ := hv.attempt hsize hlen hback rfl hocr
  rw [afterCmd_acmd41_ready (exchanged_r1 ..)] at hrun
  obtain ⟨k, hk⟩ := (hsu.trans huv).trans hrun
  exact ⟨k, _, hk, rfl, rfl, rfl, rfl, rfl, rfl, rfl, hdata, hcount,
    hrequests.trans (Nat.add_assoc ..).symm⟩

end Sys2Proof.Machine
end

section
/-! PROOFS. The block operations (R250 to R260): the rows that steer them, the data exchange of each, and the
whole run of READ_BLOCK and of WRITE_BLOCK: O19, O20, O58 and O59. -/

namespace Sys2Proof.Machine

/-! ## The rows of a data exchange (R253, R257, R258) -/

section
variable {s : State}

/-- The token received opens the block (R253). -/
theorem exec_dataStart_received (hs : s.seq = .run (.poll .token)) :
    exec .dataStart s = .next (s.beginXfer .block) := by
  simp only [exec, execDataStart, hs]

/-- The token sent is a transfer of its own (R257). -/
theorem exec_dataStart_sent (hs : s.seq = .run .issueToken) :
    exec .dataStart s = .next (s.beginXfer .token) := by
  simp only [exec, execDataStart, hs]

/-- A status byte that is not zero is kept, and the padding follows (R258, R259). -/
theorem exec_writeStatus_done {b : Byte} (hs : s.seq = .run (.poll .wbusy)) (hb : b ≠ 0x00#8) :
    exec (.writeStatus b) s = .next ({ s with wresp := b }.beginXfer .writePad) := by
  simp only [exec, execWriteStatus, hs, if_neg hb]

/-- A zero byte is a poll byte that does not match (R258). -/
theorem exec_writeStatus_zero (hs : s.seq = .run (.poll .wbusy)) :
    exec (.writeStatus 0x00#8) s = .next (s.pollMiss .wbusy) := by
  simp only [exec, execWriteStatus, hs, if_true]

end

/-- Settles O19: received, the token starts the transfer of the block; sent, it is a transfer whose one
byte fits any chunk. -/
theorem dataStartOpensTheBlock : Obligations.DataStartOpensTheBlock := by
  unfold Obligations.DataStartOpensTheBlock
  intro s
  refine ⟨fun hs => ?_, fun hs hc => ?_⟩
  · rw [exec_dataStart_received hs, beginXfer_fills (n := 512) rfl]
    rfl
  · have hwhole : (Xfer.token.outgoing s).take s.params.chunkSize = [0xFE#8] :=
      List.take_of_length_le hc
    rw [exec_dataStart_sent hs, State.beginXfer, State.beginChunk, chunk_zero, hwhole]
    rfl

/-- Settles O20: a byte that is not zero starts the padding; zero is the deadline test of the poll. -/
theorem writeStatusByteIsNotDecoded : Obligations.WriteStatusByteIsNotDecoded := by
  unfold Obligations.WriteStatusByteIsNotDecoded
  intro s hs
  refine ⟨fun b hb => ?_, fun ht => ?_, fun ht ho => ?_⟩
  · rw [exec_writeStatus_done hs hb, beginXfer_fills (n := 8) rfl]
    rfl
  · have hmiss : s.pollMiss .wbusy = s.beginPoll .wbusy :=
      if_neg (Bool.eq_false_iff.1 (decide_eq_false ht.not_gt))
    rw [exec_writeStatus_zero hs, hmiss]
    rfl
  · have hmiss : s.pollMiss .wbusy = s.raise .wbusyPollTimeout :=
      if_pos (decide_eq_true ht)
    rw [exec_writeStatus_zero hs, hmiss, raise_owned hs ho]
    rfl

/-! ## Inside a data exchange (R251, R256) -/

/-- A string of one byte is one chunk (R200). -/
theorem chunks_single {size : Nat} {str : List Byte} (hs : 1 ≤ size) (hl : str.length = 1) :
    chunks size str = [str] := by
  have hcount : (str.length + size - 1) / size = 1 := by
    rw [hl, Nat.add_sub_cancel_left, Nat.div_self hs]
  rw [chunks, hcount, List.range_one, List.map_singleton, chunk_zero,
    List.take_of_length_le (hl.trans_le hs)]

/-- `u` with a data exchange open: chip-select is asserted and owned, the requests `sent` have been made and
answered, and `inbox` is still to come. -/
def State.inBracket (u : State) (sent : List Request) (inbox : List Event) : State :=
  { u with
    csOwned := true, csst := .asserted, req := none, inbox := inbox,
    wire := sent.reverse ++ u.wire }

/-- `u` with a data exchange closed again after the requests `sent`. -/
def State.bracketed (u : State) (sent : List Request) (inbox : List Event) : State :=
  { u with
    csOwned := false, csst := .deasserted, req := none, inbox := inbox,
    wire := sent.reverse ++ u.wire }

section
variable {u : State} {sent : List Request} {rest : List Event}

/-- CS_ASSERT opens the exchange (R202). -/
theorem bracket_opens {b : Exchange} (hb : b = .read ∨ b = .write)
    (hi : u.inbox = .answer (.ok []) :: rest) :
    Reaches (u.beginCsOn b) ((u.inBracket [.csAssert] rest).afterCsOn b) := by
  have hstep : step (u.beginCsOn b) = .next ({ u.inBracket [.csAssert] rest with
      seq := .run (.csOn b) }.afterCsOn b) := by
    rw [step_csOn_ok (s := u.beginCsOn b) hi rfl rfl, State.csAssertAnswered, State.inBracket]
    simp
  rcases hb with rfl | rfl <;> exact .of_step hstep

/-- CS_DEASSERT closes the exchange, and with it the operation (R203, R251, R256). -/
theorem bracket_closes {b : Exchange} (hb : b = .read ∨ b = .write) :
    Reaches ((u.inBracket sent (.answer (.ok []) :: rest)).beginCsOff b)
      ((u.bracketed (sent ++ [.csDeassert]) rest).endOp .none) := by
  have hstep := step_csOff_ok (s := (u.inBracket sent (.answer (.ok []) :: rest)).beginCsOff b)
    rfl rfl rfl
  have hwire : (sent ++ [Request.csDeassert]).reverse ++ u.wire =
      .csDeassert :: (sent.reverse ++ u.wire) := by simp
  rw [State.bracketed, hwire]
  rcases hb with rfl | rfl <;> exact .of_step hstep

/-- The chunks of a transfer join the requests made, and its bytes land as they do outside. -/
theorem transferred_inBracket (x : Xfer) (bs : List Byte) (inbox : List Event) :
    (u.inBracket sent inbox).transferred x bs rest = (u.deliver x 0 bs).inBracket
      (sent ++ (chunks u.params.chunkSize (x.outgoing u)).map .bulk) rest := by
  have ho : x.outgoing (u.inBracket sent inbox) = x.outgoing u :=
    outgoing_congr x rfl rfl rfl rfl rfl
  rw [State.transferred, ho, State.inBracket, State.inBracket, List.reverse_append,
    List.append_assoc]
  cases x <;> rfl

/-- WRITE_BLOCK sends its token without waiting for an input (R256 step 2). -/
theorem token_starts {a : Answer} :
    Reaches ((u.inBracket sent (.answer a :: rest)).afterCsOn .write)
      ((u.inBracket sent (.answer a :: rest)).beginXfer .token) :=
  let v := (u.inBracket sent (.answer a :: rest)).goto .issueToken
  .of_step ((step_own (m := .execute .dataStart v) rfl rfl).trans
    (exec_dataStart_sent (s := v) rfl))

/-- A transfer answered with the chunks of a string of its own length runs to its end (R200, R201). -/
theorem transfer_reaches (x : Xfer) {bs : List Byte} (hc : 1 ≤ u.params.chunkSize)
    (hn : 1 ≤ bs.length) (hl : x.size u = bs.length) :
    Reaches ((u.inBracket sent (answersOf (chunks u.params.chunkSize bs) ++ rest)).beginXfer x)
      (((u.deliver x 0 bs).inBracket
        (sent ++ (chunks u.params.chunkSize (x.outgoing u)).map .bulk) rest).afterXfer x) := by
  let v := u.inBracket sent (answersOf (chunks u.params.chunkSize bs) ++ rest)
  have hsize : x.size v = bs.length := (size_congr x rfl rfl).trans hl
  have hrun := steps_transfer (u := v) (x := x) hc (hn.trans_eq hsize.symm) rfl
    (chunks_map_length (hsize.symm.trans (outgoing_length x v).symm))
  rw [chunks_flatten hc, transferred_inBracket] at hrun
  exact ⟨_, hrun⟩

/-- A poll skips the bytes that do not match, one request each, and the byte that does runs its row, while
time stands still (R204). -/
theorem poll_reaches {k : PollKind} {bs : List Byte} {b : Byte} {v : State} (ht : u.t0 = u.now)
    (hskip : ∀ b ∈ bs, k.matched b = false) (hb : k.matched b = true)
    (hrow : exec (k.row b) { u.inBracket
      (sent ++ List.replicate (bs.length + 1) (.bulk [Config.fill])) rest with
        seq := .run (.poll k) } = .next v) :
    Reaches ((u.inBracket sent (answersOf (bs.map fun b => [b]) ++
      .answer (.ok [b]) :: rest)).beginPoll k) v := by
  have hwire : (sent ++ List.replicate (bs.length + 1) (Request.bulk [Config.fill])).reverse ++
      u.wire = .bulk [Config.fill] :: (List.replicate bs.length (.bulk [Config.fill]) ++
        (sent.reverse ++ u.wire)) := by
    simp [List.replicate_succ']
  rw [State.inBracket, hwire] at hrow
  exact Reaches.trans ⟨_, steps_poll_skips ht rfl hskip⟩
    (.of_step ((step_poll_match rfl rfl rfl hb).trans hrow))

end

/-! ## The command of a block operation (R251 step 1, R256 step 1) -/

/-- CMD17 answered 0x00 is followed by the data exchange of the read (R251). -/
theorem afterCmd_cmd17_ready {t : State} (h : t.resp[0] = 0x00#8) :
    t.afterCmd .cmd17 = t.beginCsOn .read := if_pos h

/-- CMD24 answered 0x00 is followed by the data exchange of the write (R256). -/
theorem afterCmd_cmd24_ready {t : State} (h : t.resp[0] = 0x00#8) :
    t.afterCmd .cmd24 = t.beginCsOn .write := if_pos h

/-- The command's exchange, answered 0x00, leads to the CS_ASSERT of the data exchange. -/
theorem blockCommand_reaches {u : State} {w : Cmd} {b : Exchange} {back before : List Byte}
    {rest : List Event} (hw : (w = .cmd17 ∧ b = .read) ∨ (w = .cmd24 ∧ b = .write))
    (hc : 1 ≤ u.params.chunkSize) (hback : back.length = 6)
    (hbefore : ∀ b ∈ before, b.getLsbD 7 = true)
    (hi : u.inbox = exchangeAnswers u.params.chunkSize back before 0x00#8 [] ++ rest) :
    Reaches (u.enterCmd w)
      (((u.enterCmd w).exchanged w (before.length + 1) 0x00#8 [] rest).beginCsOn b) := by
  have hrun (hlen : 0 = w.len (u.enterCmd w) - 1) := exchange_reaches (u := u.enterCmd w)
    (payload := []) hc rfl (enterCmd_frame_built u w) hback hbefore (by decide) hlen hi
  have hready := exchanged_r1 (u.enterCmd w) w (before.length + 1) 0x00#8 [] rest
  rcases hw with ⟨rfl, rfl⟩ | ⟨rfl, rfl⟩
  · exact afterCmd_cmd17_ready hready ▸ hrun rfl
  · exact afterCmd_cmd24_ready hready ▸ hrun rfl

/-- The requests of two exchanges made one after the other, oldest first (R60). -/
theorem reverse_wire (wire first second : List Request) :
    (second.reverse ++ (first.reverse ++ wire)).reverse = wire.reverse ++ first ++ second := by
  simp

/-! ## READ_BLOCK (R251 to R254) -/

/-- The requests of a transfer of `n` FILL bytes (R109, R200). -/
def fillRequests (size n : Nat) : List Request :=
  (chunks size (List.replicate n Config.fill)).map .bulk

/-- The requests of a read's data exchange with `polls` token poll bytes, in their order (R109). -/
def readRequests (size polls : Nat) : List Request :=
  [Request.csAssert] ++ List.replicate polls (Request.bulk [Config.fill]) ++
    fillRequests size 512 ++ fillRequests size 2 ++ fillRequests size 8 ++ [Request.csDeassert]

/-- The answers to a read's data exchange, one step of the pseudocode after another. -/
theorem readAnswers_append (size : Nat) (skipped block crc pad : List Byte) (rest : List Event) :
    answersOf ([[]] ++ skipped.map (fun b => [b]) ++ [[0xFE#8]] ++ chunks size block ++
      chunks size crc ++ chunks size pad ++ [[]]) ++ rest =
    .answer (.ok []) :: (answersOf (skipped.map fun b => [b]) ++ .answer (.ok [0xFE#8]) ::
      (answersOf (chunks size block) ++ (answersOf (chunks size crc) ++
        (answersOf (chunks size pad) ++ .answer (.ok []) :: rest)))) := by
  simp [answersOf]

/-- A whole block stored is read back byte by byte (R252). -/
theorem putData_block_dataByte (u : State) {block : List Byte} (h : block.length = 512) (i : Nat) :
    (u.putData 0 block).dataByte i = if i < 512 then block.getD i 0#8 else u.dataByte i := by
  simp [putData_dataByte, h]

/-- The data exchange of a read against a transport that answers `ok` while time stands still, from its
CS_ASSERT to the end of the operation: the token poll, the block, its CRC, the padding. -/
theorem readExchange_reaches {u : State} {skipped block crc pad : List Byte} {rest : List Event}
    (hc : 1 ≤ u.params.chunkSize) (hskip : ∀ b ∈ skipped, b ≠ 0xFE#8)
    (hblock : block.length = 512) (hcrc : crc.length = 2) (hpad : pad.length = 8)
    (hi : u.inbox = answersOf ([[]] ++ skipped.map (fun b => [b]) ++ [[0xFE#8]] ++
      chunks u.params.chunkSize block ++ chunks u.params.chunkSize crc ++
      chunks u.params.chunkSize pad ++ [[]]) ++ rest) :
    Reaches (u.beginCsOn .read) ((({ u with t0 := u.now }.putData 0 block).bracketed
      (readRequests u.params.chunkSize (skipped.length + 1)) rest).endOp .none) := by
  let size := u.params.chunkSize
  let fromPad := answersOf (chunks size pad) ++ .answer (.ok []) :: rest
  let fromCrc := answersOf (chunks size crc) ++ fromPad
  let fromBlock := answersOf (chunks size block) ++ fromCrc
  let v : State := { u with t0 := u.now }
  let w : State := v.putData 0 block
  let toToken := [Request.csAssert] ++ List.replicate (skipped.length + 1) (.bulk [Config.fill])
  let toBlock := toToken ++ fillRequests size 512
  let toCrc := toBlock ++ fillRequests size 2
  let toPad := toCrc ++ fillRequests size 8
  have hopen := bracket_opens (.inl rfl) (hi.trans (readAnswers_append ..))
  have htoken : Reaches _ ((v.inBracket toToken fromBlock).beginXfer .block) :=
    poll_reaches (u := v) (k := .token) (sent := [.csAssert]) (bs := skipped) (b := 0xFE#8) rfl
      (fun b hb => beq_false_of_ne (hskip b hb)) rfl (exec_dataStart_received rfl)
  have hfill : Reaches _ ((w.inBracket toBlock fromCrc).beginXfer .readCrc) :=
    transfer_reaches (u := v) (sent := toToken) .block hc (by omega) hblock.symm
  have htrail : Reaches _ ((w.inBracket toCrc fromPad).beginXfer .readPad) :=
    transfer_reaches (u := w) (sent := toBlock) .readCrc hc (by omega) hcrc.symm
  have hpadded : Reaches _ ((w.inBracket toPad (.answer (.ok []) :: rest)).beginCsOff .read) :=
    transfer_reaches (u := w) (sent := toCrc) .readPad hc (by omega) hpad.symm
  exact ((((hopen.trans htoken).trans hfill).trans htrail).trans hpadded).trans
    (bracket_closes (.inl rfl))

/-- Settles O58: the CTRL write, the exchange of CMD17, and the data exchange. -/
theorem readBlockFillsData : Obligations.ReadBlockFillsData := by
  unfold Obligations.ReadBlockFillsData
  intro s back before skipped block crc pad rest hinv hb hback hbefore hskip hblock hcrc hpad size
    fills hi
  rw [List.append_assoc] at hi
  have hc : 1 ≤ size := hinv.params.1
  let data : List Event := answersOf ([[]] ++ skipped.map (fun b => [b]) ++ [[0xFE#8]] ++
    chunks size block ++ chunks size crc ++ chunks size pad ++ [[]]) ++ rest
  let u : State := ({ s with
    inbox := exchangeAnswers size back before 0x00#8 [] ++ data }.latch 3#3).launch .readBlock
  let w : State := (u.enterCmd .cmd17).exchanged .cmd17 (before.length + 1) 0x00#8 [] data
  have hwrite : step s = .next u :=
    step_ctrlWrite (o := .readBlock) (v := 3#32) hb (by decide) nofun hi
  have hstart : step u = .next (u.enterCmd .cmd17) := step_start (op := .readBlock) rfl rfl
  have hcommand : Reaches (u.enterCmd .cmd17) (w.beginCsOn .read) :=
    blockCommand_reaches (.inl ⟨rfl, rfl⟩) hc hback hbefore rfl
  have hdata := readExchange_reaches (u := w) hc hskip hblock hcrc hpad rfl
  obtain ⟨k, hk⟩ := (((Reaches.of_step hwrite).trans (.of_step hstart)).trans hcommand).trans hdata
  exact ⟨k, _, hk, rfl, rfl, rfl, rfl, rfl, putData_block_dataByte { w with t0 := w.now } hblock,
    reverse_wire s.wire (exchangeRequests size (buildFrame 17#6 s.arg) (before.length + 1) 0) _⟩

/-! ## WRITE_BLOCK (R255 to R259) -/

/-- The requests of a write's data exchange of the bytes `copy`, with `polls` busy poll bytes, in their
order (R109). -/
def writeRequests (size : Nat) (copy : List Byte) (polls : Nat) : List Request :=
  [Request.csAssert, .bulk [Config.startToken]] ++ (chunks size copy).map Request.bulk ++
    (chunks size [0xFF#8, 0xFF#8]).map Request.bulk ++
    List.replicate polls (Request.bulk [Config.fill]) ++ fillRequests size 8 ++ [Request.csDeassert]

/-- The answers to a write's data exchange, one step of the pseudocode after another. -/
theorem writeAnswers_append (size : Nat) (tok sent crc pad : List Byte) (zeros : Nat)
    (status : Byte) (rest : List Event) :
    answersOf ([[], tok] ++ chunks size sent ++ chunks size crc ++
      List.replicate zeros [0x00#8] ++ [[status]] ++ chunks size pad ++ [[]]) ++ rest =
    .answer (.ok []) :: .answer (.ok tok) :: (answersOf (chunks size sent) ++
      (answersOf (chunks size crc) ++
        (answersOf ((List.replicate zeros 0x00#8).map fun b => [b]) ++ .answer (.ok [status]) ::
          (answersOf (chunks size pad) ++ .answer (.ok []) :: rest)))) := by
  simp [answersOf]

/-- The data exchange of a write against a transport that answers `ok` while time stands still, from its
CS_ASSERT to the end of the operation: the token, the copy of DATA, the dummy CRC, the busy poll, the padding. -/
theorem writeExchange_reaches {u : State} {tok sent crc pad : List Byte} {zeros : Nat}
    {status : Byte} {rest : List Event} (hc : 1 ≤ u.params.chunkSize) (htok : tok.length = 1)
    (hsent : sent.length = 512) (hcrc : crc.length = 2) (hpad : pad.length = 8)
    (hstatus : status ≠ 0x00#8)
    (hi : u.inbox = answersOf ([[], tok] ++ chunks u.params.chunkSize sent ++
      chunks u.params.chunkSize crc ++ List.replicate zeros [0x00#8] ++ [[status]] ++
      chunks u.params.chunkSize pad ++ [[]]) ++ rest) :
    Reaches (u.beginCsOn .write) (({ u with t0 := u.now, wresp := status }.bracketed
      (writeRequests u.params.chunkSize ((List.range 512).map u.wcopyByte) (zeros + 1))
      rest).endOp .none) := by
  let size := u.params.chunkSize
  let fromPad := answersOf (chunks size pad) ++ .answer (.ok []) :: rest
  let fromBusy := answersOf ((List.replicate zeros 0x00#8).map fun b => [b]) ++
    .answer (.ok [status]) :: fromPad
  let fromCrc := answersOf (chunks size crc) ++ fromBusy
  let fromCopy := answersOf (chunks size sent) ++ fromCrc
  let v : State := { u with t0 := u.now }
  let w : State := { v with wresp := status }
  let toToken : List Request := [.csAssert, .bulk [Config.startToken]]
  let toCopy := toToken ++ (chunks size ((List.range 512).map u.wcopyByte)).map .bulk
  let toCrc := toCopy ++ (chunks size [0xFF#8, 0xFF#8]).map .bulk
  let toStatus := toCrc ++ List.replicate (zeros + 1) (.bulk [Config.fill])
  let toPad := toStatus ++ fillRequests size 8
  have hopen := bracket_opens (.inr rfl) (hi.trans (writeAnswers_append ..))
  have htoken := transfer_reaches (u := u) (sent := [.csAssert]) (rest := fromCopy) .token hc
    htok.ge htok.symm
  rw [chunks_single hc htok, chunks_single (str := Xfer.token.outgoing u) hc rfl] at htoken
  have hcopy : Reaches _ ((u.inBracket toCopy fromCrc).beginXfer .dummyCrc) :=
    transfer_reaches (u := u) (sent := toToken) .copy hc (by omega) hsent.symm
  have htrail : Reaches _ ((v.inBracket toCrc fromBusy).beginPoll .wbusy) :=
    transfer_reaches (u := u) (sent := toCopy) .dummyCrc hc (by omega) hcrc.symm
  have hbusy : ∀ b ∈ List.replicate zeros 0x00#8, PollKind.wbusy.matched b = false := fun b hb =>
    List.eq_of_mem_replicate hb ▸ rfl
  have hpoll := poll_reaches (u := v) (sent := toCrc) (rest := fromPad) rfl hbusy
    (bne_iff_ne.2 hstatus) (exec_writeStatus_done rfl hstatus)
  rw [List.length_replicate] at hpoll
  have hpadded : Reaches _ ((w.inBracket toPad (.answer (.ok []) :: rest)).beginCsOff .write) :=
    transfer_reaches (u := w) (sent := toStatus) .writePad hc (by omega) hpad.symm
  exact ((((((hopen.trans token_starts).trans htoken).trans hcopy).trans htrail).trans
    hpoll).trans hpadded).trans (bracket_closes (.inr rfl))

/-- Settles O59: the CTRL write, the exchange of CMD24, and the data exchange of the copy of DATA. -/
theorem writeBlockSendsData : Obligations.WriteBlockSendsData := by
  unfold Obligations.WriteBlockSendsData
  intro s back before tok sent crc pad zeros status rest hinv hb hback hbefore htok hsent hcrc hpad
    hstatus size sends hi
  rw [List.append_assoc] at hi
  have hc : 1 ≤ size := hinv.params.1
  let data : List Event := answersOf ([[], tok] ++ chunks size sent ++ chunks size crc ++
    List.replicate zeros [0x00#8] ++ [[status]] ++ chunks size pad ++ [[]]) ++ rest
  let v : State := ({ s with
    inbox := exchangeAnswers size back before 0x00#8 [] ++ data }.latch 4#3).launch .writeBlock
  let u : State := { v with wcopy := s.data, wresp := 0x00#8 }
  let w : State := (u.enterCmd .cmd24).exchanged .cmd24 (before.length + 1) 0x00#8 [] data
  have hwrite : step s = .next v :=
    step_ctrlWrite (o := .writeBlock) (v := 4#32) hb (by decide) nofun hi
  have hstart : step v = .next (u.enterCmd .cmd24) := step_start (op := .writeBlock) rfl rfl
  have hcommand : Reaches (u.enterCmd .cmd24) (w.beginCsOn .write) :=
    blockCommand_reaches (.inr ⟨rfl, rfl⟩) hc hback hbefore rfl
  have hdata := writeExchange_reaches (u := w) hc htok hsent hcrc hpad hstatus rfl
  obtain ⟨k, hk⟩ := (((Reaches.of_step hwrite).trans (.of_step hstart)).trans hcommand).trans hdata
  exact ⟨k, _, hk, rfl, rfl, rfl, rfl, rfl, rfl, rfl,
    reverse_wire s.wire (exchangeRequests size (buildFrame 24#6 s.arg) (before.length + 1) 0) _⟩

end Sys2Proof.Machine
end

section
/-! PROOFS. Errors and the failure path (R280 to R293): the codes, elapsed time, the one CS_DEASSERT of a
failure, the errors an operation may end with, and the request that is never answered: O6 and O32 to O35. -/

namespace Sys2Proof.Machine

/-! ## The error codes (R280, R281) -/

/-- Each DETAIL code but that of no error goes with an error kind (R281). -/
theorem kind_eq_none_iff (d : Detail) : d.kind = .none ↔ d = .none := by
  cases d <;> simp [Detail.kind]

/-- Settles O6: the four tables are finite. -/
theorem errorCodesOfTheTables : Obligations.ErrorCodesOfTheTables := by
  unfold Obligations.ErrorCodesOfTheTables
  exact ⟨rfl, rfl, rfl, by decide, kind_eq_none_iff⟩

/-! ## Elapsed time (R292) -/

theorem elapsed_lt (width t t0 : Nat) : elapsed width t t0 < 2 ^ width :=
  Nat.mod_lt _ (Nat.two_pow_pos width)

/-- A deadline has passed exactly when more ticks than it allows have elapsed (R204). -/
theorem late_iff (s : State) (anchor deadline : Nat) :
    s.late anchor deadline = true ↔ deadline < elapsed s.params.timeWidth s.now anchor :=
  decide_eq_true_iff

/-- Elapsed time is the true interval, modulo a full turn of the time input: with the anchor added back,
both are the later sample. -/
theorem elapsed_wraps (width : Nat) {a b : Nat} (h : a ≤ b) :
    elapsed width (b % 2 ^ width) (a % 2 ^ width) = (b - a) % 2 ^ width := by
  have ha : a % 2 ^ width < 2 ^ width := Nat.mod_lt _ (Nat.two_pow_pos width)
  have hback : b % 2 ^ width + 2 ^ width - a % 2 ^ width + a % 2 ^ width ≡ b - a + a
      [MOD 2 ^ width] := by
    rw [Nat.sub_add_cancel (by omega), Nat.sub_add_cancel h]
    exact (Nat.add_mod_right _ _).trans (Nat.mod_mod _ _)
  rw [elapsed, Nat.mod_mod]
  exact Nat.ModEq.add_right_cancel (Nat.mod_modEq a _) hback

/-- Settles O32: by `elapsed_wraps`; below a full turn the remainder is the interval itself. -/
theorem elapsedTimeWraps : Obligations.ElapsedTimeWraps := by
  unfold Obligations.ElapsedTimeWraps
  refine ⟨fun width _ _ h => elapsed_wraps width h, fun width a b h hturn => ?_,
    fun s anchor deadline => ⟨elapsed_lt _ _ _, late_iff s anchor deadline, fun he => ?_,
      fun he => ?_⟩⟩
  · rw [elapsed_wraps width h, Nat.mod_eq_of_lt hturn]
  · rw [← Bool.not_eq_true, late_iff, he]
    exact Nat.lt_irrefl _
  · rw [late_iff, he]
    exact Nat.lt_succ_self _

/-! ## The failure path (R285, R288) -/

/-- Settles O33: by the two cases of `raise`, and the answer at the failure path's CS_DEASSERT. -/
theorem failurePathKeepsItsError : Obligations.FailurePathKeepsItsError := by
  unfold Obligations.FailurePathKeepsItsError
  refine ⟨fun s p d hs => ?_, ?_⟩
  · cases ho : s.csOwned with
    | true => exact raise_owned hs ho d
    | false => exact raise_not_owned ho d
  · intro s op d rest hs hr ended
    have hown : ownMove s = none := by simp [ownMove, hs]
    exact ⟨fun hi => step_answer hi hr hs hown rfl rfl, fun hi => step_fail hi hr hs hown⟩

/-! ## How an operation ends (R282) -/

/-- Where `t` is idle, the operation `op` has just ended there, with no error or one its row of R282
lists. -/
def EndsListed (op : Op) (t : State) : Prop :=
  t.seq = .idle → t.done = true ∧ t.busy = false ∧ t.err = t.detail.kind ∧
    (t.detail = .none ∨ t.detail ∈ op.causes)

section
variable {op : Op} {d : Detail}

theorem endsListed_of_running {t : State} (h : t.seq ≠ .idle) : EndsListed op t :=
  fun hidle => absurd hidle h

theorem endOp_endsListed (u : State) (h : d = .none ∨ d ∈ op.causes) :
    EndsListed op (u.endOp d) :=
  fun _ => ⟨rfl, rfl, rfl, h⟩

theorem raise_endsListed (u : State) (h : d ∈ op.causes) : EndsListed op (u.raise d) := by
  unfold State.raise
  split
  · exact endOp_endsListed u (.inr h)
  · exact iteInduction (fun _ => endsListed_of_running nofun) fun _ => endOp_endsListed u (.inr h)

theorem pollMiss_endsListed (u : State) (k : PollKind) : EndsListed k.op (u.pollMiss k) := by
  rcases pollMiss_cases u k with ⟨_, e⟩ | ⟨_, e⟩ <;> rw [e]
  · exact raise_endsListed u (timeoutDetail_cause k)
  · exact endsListed_of_running nofun

/-- After a command exchange the operation goes on, ends well, or ends with an error of that command (R178,
R222 to R228, R251, R256). -/
theorem afterCmd_endsListed (u : State) (w : Cmd) : EndsListed w.op (u.afterCmd w) := by
  have fails : ∀ {d}, d ∈ w.op.causes → EndsListed w.op (u.raise d) := raise_endsListed u
  cases w with
  | user => exact endOp_endsListed u (.inl rfl)
  | cmd0 => exact iteInduction (fun _ => endsListed_of_running nofun) fun _ => fails (by decide)
  | cmd8 =>
    exact iteInduction (fun _ => fails (by decide)) fun _ => iteInduction
      (fun _ => fails (by decide)) fun _ => endsListed_of_running nofun
  | cmd55 => exact iteInduction (fun _ => endsListed_of_running nofun) fun _ => fails (by decide)
  | acmd41 =>
    exact iteInduction (fun _ => endOp_endsListed _ (.inl rfl)) fun _ => iteInduction
      (fun _ => fails (by decide)) fun _ => endsListed_of_running nofun
  | cmd17 | cmd24 =>
    exact iteInduction (fun _ => endsListed_of_running nofun) fun _ => fails (by decide)

end

theorem startOp_running (s : State) (op : Op) : (s.startOp op).seq ≠ .idle := by
  cases op <;> nofun

theorem afterCsOn_running (s : State) (b : Exchange) : (s.afterCsOn b).seq ≠ .idle := by
  cases b <;> nofun

theorem afterXfer_running (s : State) (x : Xfer) : (s.afterXfer x).seq ≠ .idle := by
  cases x <;> nofun

section
variable {s t : State} {p : Point}

/-- An answer that completes a wire row ends an operation only where a zero status byte comes too late
(R258). -/
theorem wireRow_endsListed {u : State} {a : Answer} {i : Instr} (hs : s.seq = .run p)
    (hrow : WireRow u p a i) (he : exec i s = .next t) : EndsListed p.op t := by
  cases hrow with
  | r1 w e j hp =>
    subst hp
    cases (exec_r1_at hs e j).symm.trans he
    exact iteInduction (motive := EndsListed _) (fun _ => endsListed_of_running nofun)
      fun _ => endsListed_of_running nofun
  | dataStart hp =>
    subst hp
    cases (exec_dataStart_received hs).symm.trans he
    exact endsListed_of_running nofun
  | writeStatus b hp =>
    subst hp
    by_cases hb : b = 0x00#8
    · subst hb
      cases (exec_writeStatus_zero hs).symm.trans he
      exact pollMiss_endsListed s .wbusy
    · cases (exec_writeStatus_done hs hb).symm.trans he
      exact endsListed_of_running nofun
  | r1Payload w c bs e j q hp ha hd =>
    subst hp
    simp only [exec, execR1Payload, hs] at he
    cases he
    exact endsListed_of_running nofun

/-- Any other answer ends an operation only as R282 lists; at the failure path's CS_DEASSERT the error is
the one that started it. -/
theorem onAnswer_endsListed (hs : s.seq = .run p)
    (hcause : ∀ op d, p = .failCs op d → d ∈ op.causes) (a : Answer) :
    EndsListed p.op (s.onAnswer p a) := by
  cases p with
  | start _ | issueCmd _ | issueToken =>
    exact endsListed_of_running (by simp [State.onAnswer, hs])
  | csOn b =>
    cases a with
    | ok _ => exact endsListed_of_running (afterCsOn_running _ b)
    | fail => exact raise_endsListed _ (csAssertFail_cause _)
  | csOff b =>
    cases a with
    | ok _ =>
      cases b with
      | cmd w => exact afterCmd_endsListed _ w
      | read | write => exact endOp_endsListed _ (.inl rfl)
    | fail => exact raise_endsListed _ (csDeassertFail_cause _)
  | failCs op d => cases a <;> exact endOp_endsListed _ (.inr (hcause op d rfl))
  | xfer x c =>
    cases a with
    | ok bs =>
      exact iteInduction (motive := EndsListed _) (fun _ => endsListed_of_running nofun)
        fun _ => endsListed_of_running (afterXfer_running _ x)
    | fail => exact raise_endsListed _ (xferFail_cause _)
  | poll k =>
    cases a with
    | ok _ => exact pollMiss_endsListed s k
    | fail => exact raise_endsListed s (xferFail_cause _)

/-- Every step of a running operation but a reset leaves it running or ends it as R282 lists. -/
theorem Stepped.endsListed (h : Stepped s t) (hinv : s.Inv) (hs : s.seq = .run p)
    (hreset : ∀ rest, s.inbox ≠ .reset :: rest) : EndsListed p.op t := by
  have still : t.seq = s.seq → EndsListed p.op t := fun e =>
    endsListed_of_running (by simp [e, hs])
  cases h with
  | host a rest i hi hf he =>
    have hb : s.busy = true := hinv.busy.2 (by simp [hs])
    refine still ?_
    rw [((fetchHost_effect hf).next_busy (s := { s with inbox := rest }) hb he).1]
  | reset rest hi ht => exact absurd hi (hreset rest)
  | time n rest hi hn ht | otherAgent rest hi hb ht | stale a rest hi ht | dropped a rest hi ho hr ht
  | again hi ho hc ht | waits hi hidle ht => exact still (ht ▸ rfl)
  | start op hs' ht => exact ht ▸ endsListed_of_running (startOp_running s op)
  | frame w i hs' hd he =>
    obtain ⟨u, -, hsend⟩ := exec_frame hd he
    obtain ⟨w', -, rfl⟩ := sendFrame_frame hsend
    exact endsListed_of_running nofun
  | token hs' he =>
    cases (exec_dataStart_sent hs').symm.trans he
    exact endsListed_of_running nofun
  | wire a rest r q i hi hr hq ho hfit hw he =>
    cases hs.symm.trans hq
    exact wireRow_endsListed (s := { s with inbox := rest, req := none }) hs (fetchWire_row hw) he
  | answer a rest r q hi hr hq ho hfit hw ht =>
    cases hs.symm.trans hq
    subst ht
    exact onAnswer_endsListed (s := { s with inbox := rest, req := none }) hs
      (fun op d e => hinv.cause op d (e ▸ hs)) a

end

/-- Settles O34: by `Stepped.endsListed`. -/
theorem operationsEndWithListedErrors : Obligations.OperationsEndWithListedErrors := by
  unfold Obligations.OperationsEndWithListedErrors
  intro s t p hinv hs h hidle
  by_cases hreset : ∃ rest, s.inbox = .reset :: rest
  · exact .inl hreset
  · exact .inr ((step_inv h).endsListed hinv hs (fun rest hi => hreset ⟨rest, hi⟩) hidle)

/-! ## A request that is never answered (R293) -/

section
variable {s : State}

/-- A request is outstanding only while an operation runs (R40). -/
theorem State.Inv.running_of_req (h : s.Inv) (hr : s.req ≠ none) : s.seq ≠ .idle := by
  intro hs
  exact hr (by rw [h.request, hs]; rfl)

/-- With a request outstanding the sequencer has no move of its own. -/
theorem State.Inv.ownMove_of_req (h : s.Inv) (hr : s.req ≠ none) : ownMove s = none :=
  not_not.1 fun ho => hr (h.req_of_ownMove ho)

end

/-- Settles O35: with a request outstanding the sequencer moves only at an answer, and a host access finds
the block busy. -/
theorem unansweredRequestIsStuck : Obligations.UnansweredRequestIsStuck := by
  unfold Obligations.UnansweredRequestIsStuck
  refine ⟨fun s hinv hr hi hc =>
    step_nil_stuck hi (hinv.ownMove_of_req hr) hc (hinv.running_of_req hr), ?_⟩
  intro s t hinv hr hanswer hreset h
  have hb : s.busy = true := hinv.busy.2 (hinv.running_of_req hr)
  cases step_moved h with
  | reset rest hi ht => exact absurd hi (hreset rest)
  | host a rest i hi hx he =>
    rw [(step_host_busy hb hi h).1]
    exact ⟨hb, rfl, rfl, rfl, rfl, rfl⟩
  | time n rest hi hn ht | waits ht =>
    rw [ht]
    exact ⟨hb, rfl, rfl, rfl, rfl, rfl⟩
  | runs p hs hrun hin hh =>
    rcases hin with ho | ⟨a, rest, hi⟩
    · exact absurd (hinv.ownMove_of_req hr) ho
    · exact absurd hi (hanswer a rest)

end Sys2Proof.Machine
end

section
/-! PROOFS. Reset in the middle of anything (R310 to R312): O2. -/

namespace Sys2Proof.Machine

section
variable {s : State} {a : Answer} {rest : List Event}

/-- An idle block drops an answer: the sequencer has no move of its own and waits for none. -/
theorem step_answer_idle (hs : s.seq = .idle) (hi : s.inbox = .answer a :: rest) :
    step s = .next { s with inbox := rest } := by
  rw [step_answer_move hi (by simp [ownMove, hs]),
    answerMove_none (s := { s with inbox := rest }) (.inr hs)]
  rfl

/-- An answer the outstanding request cannot have is dropped (R40): the sequencer waits on. -/
theorem step_answer_unfit {r : Request} (hinv : s.Inv) (hr : s.req = some r)
    (hf : r.fits a = false) (hi : s.inbox = .answer a :: rest) :
    step s = .next { s with inbox := rest } := by
  rw [step_answer_move hi (hinv.ownMove_of_req (by simp [hr])),
    answerMove_drops (s := { s with inbox := rest }) hr hf]
  rfl

end

/-- Settles O2: the step of each input is known, and the block is idle after the reset, so the answer that
comes next finds nothing it could be for. -/
theorem resetAbandonsEverything : Obligations.ResetAbandonsEverything := by
  unfold Obligations.ResetAbandonsEverything
  refine ⟨fun s rest hi => step_reset hi, fun s a rest hi => ?_, fun s a rest hi => step_stale hi,
    fun s r a rest hinv hr hf hi => step_answer_unfit hinv hr hf hi,
    fun s hs hi hc => step_nil_idle hi hc hs⟩
  exact ⟨_, step_reset hi, rfl, rfl, step_answer_idle rfl rfl⟩

end Sys2Proof.Machine
end
